-- ==== Sys2Proof/Word.lean ====
section
/-! DEFINITION. The block's data: levels, bytes, the two output words, and the names of the five output lines. -/

namespace Sys2Proof

/-- A level of a line, and a bit: `true` is level 1 (high, "assert"), `false` is level 0 (low, "deassert")
(00_scope.md R6; the polarity is the spec's decision D1, log entry 11). -/
abbrev Level := Bool

/-- An instruction byte: an HD44780 command code or a character code (00_scope.md section 6). Bit `i` is `b.getLsbD i`. -/
abbrev Byte := BitVec 8

/-- One LCD word, format LCDW9: bit 8 the mode level, bits 7 to 0 the instruction byte (30_encoding.md R70). -/
abbrev LcdWord := BitVec 9

/-- One serial frame, format SER19: the level of `registerData` at the 19 register-clock pulses, the first pulse
in bit 18 (30_encoding.md R71, written leftmost first in the opcode table; log entry 17). -/
abbrev SerialFrame := BitVec 19

/-- The five output lines (00_scope.md section 5). -/
inductive Line where
  | registerData
  | registerClock
  | registerClear
  | lcdClock
  | lcdModeSelect
deriving DecidableEq, Repr

/-- The index the spec gives each line (00_scope.md section 5; 10_state.md R21). -/
def Line.index : Line → Fin 5
  | .registerData => 0
  | .registerClock => 1
  | .registerClear => 2
  | .lcdClock => 3
  | .lcdModeSelect => 4

end Sys2Proof
end

