-- ==== Sys2Proof/Syntax.lean ====
section
/-! DEFINITION. The instructions: one constructor per row of spec/opcode_table.json. A host's request is an abstract
value, an operation with its operands (30_encoding.md R83). -/

namespace Sys2Proof

/-- The twelve public operations (30_encoding.md R80) and the three internal procedures (R104, R105, R120).
Integers are mathematical integers and a string is a list of 8-bit codes of any length (D11). -/
inductive Instr where
  /-- `construct`: function set, then the two setters with their defaults (R131). -/
  | construct
  /-- `home` (R132). -/
  | home
  /-- `clear` (R133). -/
  | clear
  /-- `setEntryMode(direction, display)` (R134). -/
  | setEntryMode (direction display : Bool)
  /-- `setCursorMode(active, blink)` (R135). -/
  | setCursorMode (active blink : Bool)
  /-- `displayOff` (R136). -/
  | displayOff
  /-- `setCursor(x, y)` (R137). -/
  | setCursor (x y : Int)
  /-- `shiftCursorLeft(step)` (R138). -/
  | shiftCursorLeft (step : Int)
  /-- `shiftCursorRight(step)` (R139). -/
  | shiftCursorRight (step : Int)
  /-- `shiftDisplayLeft(step)` (R140). -/
  | shiftDisplayLeft (step : Int)
  /-- `shiftDisplayRight(step)` (R141). -/
  | shiftDisplayRight (step : Int)
  /-- `write(string)` (R142). -/
  | write (string : List Byte)
  /-- The internal procedure `shiftByte(b)` (R105). -/
  | shiftByte (b : Byte)
  /-- The internal procedure `clearRegister()` (R104). -/
  | clearRegister
  /-- The internal procedure `setMode(isCharacterData)` (R120). -/
  | setMode (isCharacterData : Bool)
deriving DecidableEq, Repr

namespace Instr

/-- The twelve operations a host may request; the internal procedures are not among them
(30_encoding.md R80; 42_lcd_driver_ops.md R145). -/
def isPublic : Instr → Bool
  | .construct => true
  | .home => true
  | .clear => true
  | .setEntryMode _ _ => true
  | .setCursorMode _ _ => true
  | .displayOff => true
  | .setCursor _ _ => true
  | .shiftCursorLeft _ => true
  | .shiftCursorRight _ => true
  | .shiftDisplayLeft _ => true
  | .shiftDisplayRight _ => true
  | .write _ => true
  | .shiftByte _ => false
  | .clearRegister => false
  | .setMode _ => false

/-- `setEntryMode()`: an omitted operand takes its default when the request is formed (R80; log entry 22). -/
def setEntryModeDefault : Instr := .setEntryMode true false
/-- `setCursorMode()` (R80). -/
def setCursorModeDefault : Instr := .setCursorMode false false
/-- `shiftCursorLeft()` (R80). -/
def shiftCursorLeftDefault : Instr := .shiftCursorLeft 1
/-- `shiftCursorRight()` (R80). -/
def shiftCursorRightDefault : Instr := .shiftCursorRight 1
/-- `shiftDisplayLeft()` (R80). -/
def shiftDisplayLeftDefault : Instr := .shiftDisplayLeft 1
/-- `shiftDisplayRight()` (R80). -/
def shiftDisplayRightDefault : Instr := .shiftDisplayRight 1
/-- `setMode()` (R120). -/
def setModeDefault : Instr := .setMode false

end Instr

end Sys2Proof
end

