-- ==== Sys2Proof/WellFormed.lean ====
section
/-! DEFINITION. The static check of an instruction: the constraints the block checks (30_encoding.md R80, last
column). An instruction that fails it can be requested; the block then reports an error (60_exceptions.md R164). -/

namespace Sys2Proof

/-- `0 <= x <= 15` and `0 <= y <= 1` for `setCursor`, `1 <= length <= 16` for `write`; no other operand is
constrained (R80). -/
def Instr.wellFormed : Instr → Bool
  | .construct => true
  | .home => true
  | .clear => true
  | .setEntryMode _ _ => true
  | .setCursorMode _ _ => true
  | .displayOff => true
  | .setCursor x y => decide (0 ≤ x ∧ x ≤ 15 ∧ 0 ≤ y ∧ y ≤ 1)
  | .shiftCursorLeft _ => true
  | .shiftCursorRight _ => true
  | .shiftDisplayLeft _ => true
  | .shiftDisplayRight _ => true
  | .write string => decide (1 ≤ string.length ∧ string.length ≤ 16)
  | .shiftByte _ => true
  | .clearRegister => true
  | .setMode _ => true

/-- The representative of the instructions with one encoding: `blink` implies `active`, whatever the `active`
operand (30_encoding.md R74), so both spellings are the one that says so. -/
def Instr.canonical : Instr → Instr
  | .setCursorMode active blink => .setCursorMode (active || blink) blink
  | i => i

end Sys2Proof
end

