-- ==== Sys2Proof/Decode.lean ====
section
/-! DEFINITION. The block's two output encodings, read back (30_encoding.md R70 to R79): decoding what was observed
to the operation or procedure that emitted it, total and rejecting by name, and then the encoder. The host's
request has no bit-level encoding (R83). -/

namespace Sys2Proof

/-- What one operation or procedure puts on the lines, in the format the opcode table gives its row. -/
inductive Encoded where
  /-- LCDW9: the LCD words of one public operation, in order (R70, R72). -/
  | words (ws : List LcdWord)
  /-- SER19: the data levels at the 19 register-clock pulses of one `shiftByte`, first pulse in bit 18 (R71). -/
  | frame (f : SerialFrame)
  /-- Pulses 1 to 10 of SER19, one register-clear cycle, first pulse in bit 9 (R104). -/
  | clearFrame (f : BitVec 10)
  /-- Bit 8 of LCDW9 alone: the mode level one `setMode` writes (R120). -/
  | modeBit (m : BitVec 1)
deriving DecidableEq, Repr

/-- Why an observation is no encoding of an instruction. -/
inductive DecodeError where
  /-- A command-mode byte the block never emits (R78). -/
  | neverEmitted (b : Byte)
  /-- No word at all: a rejected request, or a shift of step 0 or less, emits none (R72). -/
  | noWords
  /-- 0x38 alone: `construct` emits three words (R72). -/
  | incompleteConstruct
  /-- More than 16 character words (R80). -/
  | tooManyCharacters
  /-- Several words that no one operation emits together (R72). -/
  | notOneOperation
  /-- A serial frame whose first ten data levels are not all 0, or whose last two differ (R71). -/
  | badFrame
deriving DecidableEq, Repr

/-- The shift whose byte this word carries, if any: `0b0001tr00` in command mode (R76). -/
def decodeShift (w : LcdWord) (step : Int) : Option Instr :=
  if w = 0b000010000#9 then some (.shiftCursorLeft step)
  else if w = 0b000010100#9 then some (.shiftCursorRight step)
  else if w = 0b000011000#9 then some (.shiftDisplayLeft step)
  else if w = 0b000011100#9 then some (.shiftDisplayRight step)
  else none

/-- One observed LCD word, decoded back to the operation that emitted it (R72): the rows of the opcode table by
mask and match. A shift word is one repetition and a character word one character. 0x0C and 0x06, which
`construct` emits too, are read as the setters, 0x38 as `construct` (log entry 18). -/
def decodeWord (w : LcdWord) : Except DecodeError Instr :=
  if w &&& 0x100#9 = 0x100#9 then .ok (.write [w.setWidth 8])
  else if w = 0b000111000#9 then .ok .construct
  else if w = 0b000000010#9 then .ok .home
  else if w = 0b000000001#9 then .ok .clear
  else if w &&& 0x1FC#9 = 0b000000100#9 then .ok (.setEntryMode (w.getLsbD 1) (w.getLsbD 0))
  else if w = 0b000001101#9 then .error (.neverEmitted (w.setWidth 8))
  else if w &&& 0x1FC#9 = 0b000001100#9 then .ok (.setCursorMode (w.getLsbD 1) (w.getLsbD 0))
  else if w = 0b000001000#9 then .ok .displayOff
  else if w &&& 0x1B0#9 = 0b010000000#9 then
    .ok (.setCursor (w.toNat % 16 : Nat) (if w.getLsbD 6 then 1 else 0))
  else match decodeShift w 1 with
    | some i => .ok i
    | none => .error (.neverEmitted (w.setWidth 8))

/-- The three words of `construct`, in order (R72, R81). -/
def constructWords : List LcdWord := [0b000111000#9, 0b000001100#9, 0b000000110#9]

/-- All the LCD words of one operation, decoded back to the operation (R72). -/
def decodeOperation (ws : List LcdWord) : Except DecodeError Instr :=
  match ws with
  | [] => .error .noWords
  | [w] => if w = 0b000111000#9 then .error .incompleteConstruct else decodeWord w
  | w :: rest =>
    if ws = constructWords then .ok .construct
    else if ws.all (fun v => v.getLsbD 8) then
      if ws.length ≤ 16 then .ok (.write (ws.map (fun v => v.setWidth 8)))
      else .error .tooManyCharacters
    else if rest.all (fun v => decide (v = w)) then
      match decodeShift w ws.length with
      | some i => .ok i
      | none => .error .notOneOperation
    else .error .notOneOperation

/-- A serial frame: ten zeros, `b[0]` to `b[7]`, and `b[7]` again at the extra pulse (R71). -/
def decodeFrame (f : SerialFrame) : Except DecodeError Instr :=
  if f.extractLsb' 9 10 = 0#10 ∧ f.getLsbD 0 = f.getLsbD 1 then
    .ok (.shiftByte ((f.extractLsb' 1 8).reverse))
  else .error .badFrame

/-- The decoder: any observation in one of the table's formats. -/
def decode : Encoded → Except DecodeError Instr
  | .words ws => decodeOperation ws
  | .frame f => decodeFrame f
  | .clearFrame f => if f = 0#10 then .ok .clearRegister else .error .badFrame
  | .modeBit m => .ok (.setMode (m.getLsbD 0))

/-- The instruction the decoder reads from the bits the opcode table gives a row, in whole bytes: 8 bits for the
row `m` of `setMode`, 16 for an LCD word and for the ten zeros of `clearRegister` (which are no LCD word the block
emits), 24 for a serial frame (log entry 17). -/
def decodeTableWord (nbits w : Nat) : Option Instr :=
  if nbits = 8 ∧ w < 2 then (decode (.modeBit (BitVec.ofNat 1 w))).toOption
  else if nbits = 16 ∧ w = 0 then (decode (.clearFrame 0#10)).toOption
  else if nbits = 16 ∧ w < 512 then (decodeWord (BitVec.ofNat 9 w)).toOption
  else if nbits = 24 ∧ w < 524288 then (decode (.frame (BitVec.ofNat 19 w))).toOption
  else none

/-! The encoder, from the patterns of R72 and R71. -/

/-- LCDW9 patterns with fields, most significant bit leftmost as the table writes them. -/
def entryModeWord (d s : Bool) : LcdWord := 0b0000001#7 ++ BitVec.ofBool d ++ BitVec.ofBool s
/-- `0000011cb` with `c = active or blink`, `b = blink` (R74). -/
def cursorModeWord (active blink : Bool) : LcdWord :=
  0b0000011#7 ++ BitVec.ofBool (active || blink) ++ BitVec.ofBool blink
/-- `01y00xxxx` (R75). -/
def setCursorWord (x y : Int) : LcdWord :=
  0b01#2 ++ BitVec.ofBool (decide (y = 1)) ++ 0b00#2 ++ BitVec.ofInt 4 x
/-- `1cccccccc` (R77). -/
def characterWord (c : Byte) : LcdWord := 1#1 ++ c

/-- SER19 of a byte: the first pulse leftmost, least significant data bit first, the last level twice (R71). -/
def serialFrame (b : Byte) : SerialFrame := 0#10 ++ b.reverse ++ BitVec.ofBool (b.getLsbD 7)

/-- The words of an instruction (R72; R71, R104 and R120 for the internal procedures). A shift of step 0 or less
emits no word. Meant for well-formed instructions; a rejected request emits nothing. -/
def encode : Instr → Encoded
  | .construct => .words [0b000111000#9, 0b000001100#9, 0b000000110#9]
  | .home => .words [0b000000010#9]
  | .clear => .words [0b000000001#9]
  | .setEntryMode direction display => .words [entryModeWord direction display]
  | .setCursorMode active blink => .words [cursorModeWord active blink]
  | .displayOff => .words [0b000001000#9]
  | .setCursor x y => .words [setCursorWord x y]
  | .shiftCursorLeft step => .words (List.replicate step.toNat 0b000010000#9)
  | .shiftCursorRight step => .words (List.replicate step.toNat 0b000010100#9)
  | .shiftDisplayLeft step => .words (List.replicate step.toNat 0b000011000#9)
  | .shiftDisplayRight step => .words (List.replicate step.toNat 0b000011100#9)
  | .write string => .words (string.map characterWord)
  | .shiftByte b => .frame (serialFrame b)
  | .clearRegister => .clearFrame 0#10
  | .setMode m => .modeBit (BitVec.ofBool m)

/-- The LCD words of an encoding; the internal procedures' formats hold none of their own. -/
def Encoded.lcdWords : Encoded → List LcdWord
  | .words ws => ws
  | .frame _ => []
  | .clearFrame _ => []
  | .modeBit _ => []

end Sys2Proof
end

