-- ==== Sys2Proof/Config.lean ====
section
/-! DEFINITION. The parameters of 00_scope.md R5: constants of this hardware, fixed when it is built
(10_state.md R33). -/

namespace Sys2Proof

/-- The two values of `RS_WRITE_POLICY`: how often a public operation writes the mode line
(00_scope.md R5; 30_encoding.md R82; log entry 9). -/
inductive RsWritePolicy where
  | oncePerOperation
  | beforeEveryByte
deriving DecidableEq, Repr

/-- `CLEAR_ZERO_BITS`: zero bits shifted in one register-clear cycle. -/
def Config.clearZeroBits : Nat := 10

/-- `DATA_BITS`: data bits shifted per `shiftByte`, least significant first. -/
def Config.dataBits : Nat := 8

/-- `EXTRA_PULSES`: register-clock pulses after the data bits ("part of the contract, not optional", R107). -/
def Config.extraPulses : Nat := 1

/-- `T_DELAY` in milliseconds, a LOWER bound of every Delay (D9; log entry 15). -/
def Config.tDelayMs : Nat := 1

/-- `COLS`. -/
def Config.cols : Int := 16

/-- `ROWS`. -/
def Config.rows : Int := 2

/-- `ROW1_BASE`: DDRAM offset of row 1. -/
def Config.row1Base : Int := 0x40

/-- `SET_DDRAM`: base of the cursor-positioning instruction byte. -/
def Config.setDdram : Int := 0x80

/-- `MIN_WRITE_LEN`. -/
def Config.minWriteLen : Nat := 1

/-- `MAX_WRITE_LEN`. -/
def Config.maxWriteLen : Nat := 16

/-- `FUNCTION_SET`: the one function-set byte, emitted by `construct`. -/
def Config.functionSet : Byte := 0x38#8

/-- `RS_WRITE_POLICY`, decided `ONCE_PER_OPERATION` (D3; log entry 9). -/
def Config.rsWritePolicy : RsWritePolicy := .oncePerOperation

/-- `ZERO_BIT_DRIVES_DATA`, decided true (D2; log entry 10). -/
def Config.zeroBitDrivesData : Bool := true

/-- `RESET_LEVELS` of this hardware: every line unspecified, represented as no value and never as 0 (10_state.md R31;
93 U4; log entry 1). The parameter is OPEN, so the reset state and the step take it as an argument (`State.resetUnder`,
`hostStep`), with which a platform that knows its output cells' power-up levels instantiates it (D8); this value is the
argument `State.reset` and `step` are given. -/
def Config.resetLevel (_ : Line) : Option Level := none

end Sys2Proof
end

