-- ==== Sys2Proof/Machine/State.lean ====
section
/-! DEFINITION. The machine's state as plain data (10_state.md R20), what an observer records of it
(00_scope.md R9), and the reasons a step can stop. -/

namespace Sys2Proof.Machine

/-- The five line latches `L[0..4]` (10_state.md R21): each holds the level last written to its line, or no value
until the first write after reset (R31, log entry 1). No step of the block reads one (R22). -/
structure Latches where
  registerData  : Option Level
  registerClock : Option Level
  registerClear : Option Level
  lcdClock      : Option Level
  lcdModeSelect : Option Level
deriving DecidableEq, Repr

/-- An event of the trace, and the micro-step that produces it (00_scope.md R9; 40_register_shifter.md R100, R101). -/
inductive Event where
  | set (line : Line) (v : Level)
  | delay
deriving DecidableEq, Repr

/-- An element of an operation's expansion (30_encoding.md R82). -/
inductive Item where
  | mode (m : Level)
  | byte (b : Byte)
deriving DecidableEq, Repr

/-- The report of an operation (60_exceptions.md R163). -/
inductive Report where
  | done
  | lengthErrorEmpty
  | lengthErrorOverflow (k : Nat)
  | rangeError (x y : Int)
deriving DecidableEq, Repr

/-- The sequencer's bookkeeping, "which exists only while an operation runs" (R20): the position `pc`, `IDLE` or
`RUN(i, j)` (R24), and the request latch `REQ` with its expansion `ITEMS` (R25; log entry 6). -/
inductive Sequencer where
  | idle
  | run (req : Instr) (items : List Item) (i j : Nat)
deriving DecidableEq, Repr

/-- What the host does (60_exceptions.md R172, 70_reset_and_hazards.md R180; log entry 3). The host is the
environment, not the block: this is no queue of the block's. -/
inductive HostAction where
  /-- Present this request as soon as the block is idle: the host keeping its one duty. -/
  | requestWhenIdle (op : Instr)
  /-- Present this request now, whatever the block is doing. -/
  | request (op : Instr)
  /-- Do nothing while the block takes one step. -/
  | pass
  /-- Reset the block now. -/
  | reset
deriving DecidableEq, Repr

/-- The machine: the five latches and the sequencer (R20), and beside them three fields of the model: what an
observer has recorded so far (R9, log entry 2), oldest first, and what the host will do next (log entry 3). -/
structure State where
  lines   : Latches
  seq     : Sequencer
  trace   : List Event
  reports : List Report
  host    : List HostAction
deriving DecidableEq, Repr

/-- Why a step stops with a fault. -/
inductive Fault where
  /-- The sequencer's position lies outside the ranges of 10_state.md R24. Raised by the sequencer's step and by the
  internal procedures; in no state a run reaches (log entry 8). Safe. -/
  | positionOutOfRange
deriving DecidableEq, Repr

/-- Why a step has no meaning. -/
inductive Refusal where
  /-- An instruction whose meaning is not written yet. Raised by `exec` alone. Safe. -/
  | notModelled (mnemonic : String)
  /-- A request presented while the block is busy, "undefined and must be prevented by the caller" (60_exceptions.md
  R172; 93 U1; log entry 4). Raised by the public operations and by the host port. Safe. -/
  | requestWhileBusy
  /-- A request of an internal procedure, which is "not one of the twelve operations" (42_lcd_driver_ops.md R145;
  log entry 5). Raised by the internal procedures when no operation is running. Safe. -/
  | notRequestable
deriving DecidableEq, Repr

/-- The latches at the `RESET_LEVELS` of this hardware (R31, R180). -/
def Latches.reset : Latches where
  registerData  := Config.resetLevel .registerData
  registerClock := Config.resetLevel .registerClock
  registerClear := Config.resetLevel .registerClear
  lcdClock      := Config.resetLevel .lcdClock
  lcdModeSelect := Config.resetLevel .lcdModeSelect

/-- The machine right after reset (R31, R180), given `RESET_LEVELS` (00_scope.md R5, OPEN; D8): idle, every line latch at
its level there, nothing recorded, and a host that does nothing. -/
def State.resetUnder (levels : Latches) : State where
  lines   := levels
  seq     := .idle
  trace   := []
  reports := []
  host    := []

/-- The machine right after reset, every line unspecified (R31). -/
def State.reset : State := State.resetUnder Latches.reset

end Sys2Proof.Machine
end

