-- ==== Sys2Proof/Machine/Flags.lean ====
section
/-! DEFINITION. There are no flags, condition codes or predicates (10_state.md R28). What stands in their place: the
derived signal `busy` and the numeric form of a report. -/

namespace Sys2Proof.Machine

/-- The derived signal `busy`: `pc != IDLE` (10_state.md R26). -/
def State.busy (s : State) : Bool :=
  match s.seq with
  | .idle => false
  | .run _ _ _ _ => true

/-- The error code of a report: 0 no error, 1 LengthError, 2 RangeError (60_exceptions.md R163). -/
def Report.code : Report → Nat
  | .done => 0
  | .lengthErrorEmpty => 1
  | .lengthErrorOverflow _ => 1
  | .rangeError _ _ => 2

end Sys2Proof.Machine
end

