-- ==== Sys2Proof/Machine/Operands.lean ====
section
/-! DEFINITION. The operand forms: validation (R137, R142), the assembly of each instruction byte (30_encoding.md
R73 to R77), and the expansion of an operation into items (R82). -/

namespace Sys2Proof.Machine

/-- The range check of `setCursor`: `0 <= x <= 15` and `0 <= y <= 1` (R137, R162). -/
def cursorInRange (x y : Int) : Bool :=
  decide (0 ≤ x ∧ x < Config.cols ∧ 0 ≤ y ∧ y < Config.rows)

/-- The length check of `write`: the error it raises, if any (R142, R161). -/
def lengthError (string : List Byte) : Option Report :=
  if string.length < Config.minWriteLen then some .lengthErrorEmpty
  else if string.length > Config.maxWriteLen then
    some (.lengthErrorOverflow (string.length - Config.maxWriteLen))
  else none

/-- A bool used as a bit of a byte: true is 1 (00_scope.md section 4, `zext_8`). -/
def boolBit (v : Bool) : Byte := (BitVec.ofBool v).setWidth 8

/-- `0x04 | (direction << 1) | display` (R73, decision D4). -/
def entryModeByte (direction display : Bool) : Byte :=
  0x04#8 ||| (boolBit direction <<< 1) ||| boolBit display

/-- `0x0F if blink else (0x0E if active else 0x0C)` (R74). -/
def cursorModeByte (active blink : Bool) : Byte :=
  if blink then 0x0F#8 else if active then 0x0E#8 else 0x0C#8

/-- The DDRAM address of column `x`, row `y`: `x + (0x40 if y = 1 else 0)` (20_memory.md R57). -/
def ddramAddress (x y : Int) : Int := x + if y = 1 then Config.row1Base else 0

/-- `0x80 + x + (0x40 if y = 1 else 0)`, computed in integers (R75). -/
def setCursorByte (x y : Int) : Byte := BitVec.ofInt 8 (Config.setDdram + ddramAddress x y)

/-- The number of repetitions of a shift: `step` when positive, 0 otherwise (R143). -/
def reps (step : Int) : Nat := if step > 0 then step.toNat else 0

/-- A mode selection and the bytes sent under it, at either value of `RS_WRITE_POLICY` (R82, R122). -/
def selectAndSend (policy : RsWritePolicy) (m : Level) (bytes : List Byte) : List Item :=
  match policy with
  | .oncePerOperation => .mode m :: bytes.map .byte
  | .beforeEveryByte => bytes.flatMap (fun b => [.mode m, .byte b])

/-- The expansion function of R82, at either value of `RS_WRITE_POLICY`. For an internal procedure, the item it is;
`clearRegister` is no item but the first part of one (R104). -/
def itemsUnder (policy : RsWritePolicy) : Instr → List Item
  | .construct =>
    selectAndSend policy false [Config.functionSet] ++
      (selectAndSend policy false [cursorModeByte false false] ++
        selectAndSend policy false [entryModeByte true false])
  | .home => selectAndSend policy false [0x02#8]
  | .clear => selectAndSend policy false [0x01#8]
  | .setEntryMode direction display => selectAndSend policy false [entryModeByte direction display]
  | .setCursorMode active blink => selectAndSend policy false [cursorModeByte active blink]
  | .displayOff => selectAndSend policy false [0x08#8]
  | .setCursor x y => selectAndSend policy false [setCursorByte x y]
  | .shiftCursorLeft step => selectAndSend policy false (List.replicate (reps step) 0x10#8)
  | .shiftCursorRight step => selectAndSend policy false (List.replicate (reps step) 0x14#8)
  | .shiftDisplayLeft step => selectAndSend policy false (List.replicate (reps step) 0x18#8)
  | .shiftDisplayRight step => selectAndSend policy false (List.replicate (reps step) 0x1C#8)
  | .write string => selectAndSend policy true string
  | .shiftByte b => [.byte b]
  | .clearRegister => []
  | .setMode m => [.mode m]

/-- `items(op)`: the expansion this hardware performs (R82, `RS_WRITE_POLICY = ONCE_PER_OPERATION`). -/
def items (op : Instr) : List Item := itemsUnder Config.rsWritePolicy op

end Sys2Proof.Machine
end

