-- ==== Sys2Proof/Machine/Ops.lean ====
section
/-! DEFINITION. The named operations over the latches, the trace and the sequencer that every meaning is written
with: micro-steps (40_register_shifter.md R100 to R105), accepting a request (10_state.md R25), raising an error
(60_exceptions.md R164) and resetting (70_reset_and_hazards.md R180). The block has no memory (20_memory.md R50). -/

namespace Sys2Proof.Machine

/-- The three outcomes of a step of this machine. -/
abbrev Outcome := Host.Outcome State Fault Refusal

/-! The latches. -/

/-- The level a line latch holds; for the observer, never for the block (00_scope.md section 4). -/
def Latches.get (L : Latches) : Line → Option Level
  | .registerData => L.registerData
  | .registerClock => L.registerClock
  | .registerClear => L.registerClear
  | .lcdClock => L.lcdClock
  | .lcdModeSelect => L.lcdModeSelect

/-- `L[line] <- v`: replaces the whole 1-bit value of one latch and no other (R100, R23). -/
def Latches.set (L : Latches) : Line → Level → Latches
  | .registerData, v => { L with registerData := some v }
  | .registerClock, v => { L with registerClock := some v }
  | .registerClear, v => { L with registerClear := some v }
  | .lcdClock, v => { L with lcdClock := some v }
  | .lcdModeSelect, v => { L with lcdModeSelect := some v }

/-- The latches after an event: a `Set` writes its line, a `Delay` changes nothing (R100, R101). -/
def Latches.apply (L : Latches) : Event → Latches
  | .set line v => L.set line v
  | .delay => L

/-- The latches after a sequence of events. -/
def Latches.after (L : Latches) (es : List Event) : Latches := es.foldl Latches.apply L

/-! The procedures, as the events of their micro-steps in order. -/

/-- `pulse(line)`: write 1, then write 0 (R102). -/
def pulse (line : Line) : List Event := [.set line true, .set line false]

/-- `shiftBit(v)`: the data line, then a pulse of the register clock (R103). -/
def shiftBit (v : Level) : List Event := .set .registerData v :: pulse .registerClock

/-- One zero bit of the register-clear cycle: `shiftBit(0)` (R104, `ZERO_BIT_DRIVES_DATA`; log entry 10). -/
def zeroBit : List Event :=
  if Config.zeroBitDrivesData then shiftBit false else pulse .registerClock

/-- `clearRegister()` (R104): 33 micro-steps. -/
def clearRegisterSteps : List Event :=
  [.set .registerClear false] ++ (List.replicate Config.clearZeroBits zeroBit).flatten ++
    [.set .registerClear true, .delay]

/-- `shiftByte(b)` (R105): 64 micro-steps, the data bits least significant first (R51). -/
def shiftByteSteps (b : Byte) : List Event :=
  clearRegisterSteps ++ [.set .registerClock false] ++
    (List.range Config.dataBits).flatMap (fun i => shiftBit (b.getLsbD i)) ++
    (List.replicate Config.extraPulses (pulse .registerClock)).flatten ++ [.delay] ++
    pulse .lcdClock ++ [.delay]

/-- `setMode(isCharacterData)` (41_mode_selector.md R120): one micro-step. -/
def setModeSteps (isCharacterData : Bool) : List Event := [.set .lcdModeSelect isCharacterData]

/-- The micro-steps of an item: `Mode(m)` is `setMode(m)`, `Byte(b)` is `shiftByte(b)` (30_encoding.md R82). -/
def Item.steps : Item → List Event
  | .mode m => setModeSteps m
  | .byte b => shiftByteSteps b

/-! The sequencer. -/

/-- Perform one micro-step: its one event takes effect on the latches and is appended to the trace (R24, R59). -/
def State.perform (s : State) (e : Event) : State :=
  { s with lines := s.lines.apply e, trace := s.trace ++ [e] }

/-- Report the result of a request to the host (60_exceptions.md R163, R172). -/
def State.report (s : State) (r : Report) : State := { s with reports := s.reports ++ [r] }

/-- Advance the position past a micro-step of an item that has `len` of them (10_state.md R24): the next micro-step
of the item, else the next item, else `IDLE` with the report `Done`. -/
def State.advance (s : State) (len : Nat) : State :=
  match s.seq with
  | .idle => s
  | .run req its i j =>
    if j + 1 < len then { s with seq := .run req its i (j + 1) }
    else if i + 1 < its.length then { s with seq := .run req its (i + 1) 0 }
    else { s with seq := .idle }.report .done

/-- Perform the micro-step of an internal procedure at the position's `j`, as part of an item of `len` micro-steps.
With no operation running the procedure was requested by a host, which is refused (R145; log entry 5). -/
def microStep (procedure : List Event) (len : Nat) (s : State) : Outcome :=
  match s.seq with
  | .idle => .refused .notRequestable
  | .run _ _ _ j =>
    match procedure[j]? with
    | some e => .next ((s.perform e).advance len)
    | none => .fault .positionOutOfRange

/-! The host's side. -/

/-- Accept a valid request when idle (10_state.md R25): `REQ` and `ITEMS` are latched and `pc <- RUN(0, 0)`; no event
(log entry 7). While busy the request is refused (R172). -/
def accept (op : Instr) (s : State) : Outcome :=
  match s.seq with
  | .idle => .next { s with seq := .run op (items op) 0 0 }
  | .run _ _ _ _ => .refused .requestWhileBusy

/-- Raise a validation error, the block's one kind of exception (60_exceptions.md R164): no event, no latch changed,
the error reported, idle again at once. No state is saved and there is nothing to return from (R165). -/
def raise (r : Report) (s : State) : Outcome :=
  match s.seq with
  | .idle => .next (s.report r)
  | .run _ _ _ _ => .refused .requestWhileBusy

/-- Reset (70_reset_and_hazards.md R180, R189), at any time: idle, `REQ` and `ITEMS` discarded, every latch at the
level `RESET_LEVELS` gives, no event and no report. -/
def State.resetBlock (s : State) (levels : Latches) : State := { s with lines := levels, seq := .idle }

end Sys2Proof.Machine
end

