-- ==== Sys2Proof/Machine/LcdDriver.lean ====
section
/-! DEFINITION. The meanings of the twelve public operations (42_lcd_driver_ops.md): validate, then accept, after
which the sequencer walks the operation's items (R130). -/

namespace Sys2Proof.Machine

/-- `construct` (R131); no guard against re-invocation (R183). -/
def execConstruct (s : State) : Outcome := accept .construct s

/-- `home` (R132). -/
def execHome (s : State) : Outcome := accept .home s

/-- `clear` (R133). -/
def execClear (s : State) : Outcome := accept .clear s

/-- `setEntryMode(direction, display)` (R134). -/
def execSetEntryMode (direction display : Bool) (s : State) : Outcome :=
  accept (.setEntryMode direction display) s

/-- `setCursorMode(active, blink)` (R135). -/
def execSetCursorMode (active blink : Bool) (s : State) : Outcome :=
  accept (.setCursorMode active blink) s

/-- `displayOff` (R136). -/
def execDisplayOff (s : State) : Outcome := accept .displayOff s

/-- `setCursor(x, y)` (R137): the range error reports both coordinates (R162). -/
def execSetCursor (x y : Int) (s : State) : Outcome :=
  if cursorInRange x y then accept (.setCursor x y) s else raise (.rangeError x y) s

/-- `shiftCursorLeft(step)` (R138); `step` is not validated (R143). -/
def execShiftCursorLeft (step : Int) (s : State) : Outcome := accept (.shiftCursorLeft step) s

/-- `shiftCursorRight(step)` (R139). -/
def execShiftCursorRight (step : Int) (s : State) : Outcome := accept (.shiftCursorRight step) s

/-- `shiftDisplayLeft(step)` (R140). -/
def execShiftDisplayLeft (step : Int) (s : State) : Outcome := accept (.shiftDisplayLeft step) s

/-- `shiftDisplayRight(step)` (R141). -/
def execShiftDisplayRight (step : Int) (s : State) : Outcome := accept (.shiftDisplayRight step) s

/-- `write(string)` (R142): the length error of R161, or one byte per character in character mode. -/
def execWrite (string : List Byte) (s : State) : Outcome :=
  match lengthError string with
  | some r => raise r s
  | none => accept (.write string) s

end Sys2Proof.Machine
end

