-- ==== Sys2Proof/Machine/ModeSelector.lean ====
section
/-! DEFINITION. The meaning of the Mode Selector's procedure (41_mode_selector.md). -/

namespace Sys2Proof.Machine

/-- `setMode(isCharacterData)` (R120): one micro-step, `L[lcdModeSelect] <- isCharacterData`. -/
def execSetMode (isCharacterData : Bool) (s : State) : Outcome :=
  microStep (setModeSteps isCharacterData) (setModeSteps isCharacterData).length s

end Sys2Proof.Machine
end

