-- ==== Sys2Proof/Machine/RegisterShifter.lean ====
section
/-! DEFINITION. The meanings of the Register Shifter's procedures (40_register_shifter.md): each performs its
micro-step at the sequencer's position. -/

namespace Sys2Proof.Machine

/-- `clearRegister()` (R104), only ever performed as the first part of a `shiftByte`: its micro-steps are the first
33 of the 64 of the item. -/
def execClearRegister (s : State) : Outcome :=
  microStep clearRegisterSteps (shiftByteSteps 0#8).length s

/-- `shiftByte(b)` (R105): micro-step `j` at position `RUN(i, j)`. -/
def execShiftByte (b : Byte) (s : State) : Outcome :=
  microStep (shiftByteSteps b) (shiftByteSteps b).length s

end Sys2Proof.Machine
end

