-- ==== Sys2Proof/Machine/Dispatch.lean ====
section
/-! DEFINITION. One arm per row of spec/opcode_table.json. -/

namespace Sys2Proof.Machine

def exec (i : Instr) (s : State) : Host.Outcome State Fault Refusal :=
  match i with
  | .construct => Sys2Proof.Machine.execConstruct s
  | .home => Sys2Proof.Machine.execHome s
  | .clear => Sys2Proof.Machine.execClear s
  | .setEntryMode direction display => Sys2Proof.Machine.execSetEntryMode direction display s
  | .setCursorMode active blink => Sys2Proof.Machine.execSetCursorMode active blink s
  | .displayOff => Sys2Proof.Machine.execDisplayOff s
  | .setCursor x y => Sys2Proof.Machine.execSetCursor x y s
  | .shiftCursorLeft step => Sys2Proof.Machine.execShiftCursorLeft step s
  | .shiftCursorRight step => Sys2Proof.Machine.execShiftCursorRight step s
  | .shiftDisplayLeft step => Sys2Proof.Machine.execShiftDisplayLeft step s
  | .shiftDisplayRight step => Sys2Proof.Machine.execShiftDisplayRight step s
  | .write string => Sys2Proof.Machine.execWrite string s
  | .shiftByte b => Sys2Proof.Machine.execShiftByte b s
  | .clearRegister => Sys2Proof.Machine.execClearRegister s
  | .setMode isCharacterData => Sys2Proof.Machine.execSetMode isCharacterData s

end Sys2Proof.Machine
end

