-- ==== Sys2Proof/Machine/HostPort.lean ====
section
/-! DEFINITION. What one step of the whole machine is: the sequencer's own step, and the host's actions on the block
(60_exceptions.md R172; log entry 3). -/

namespace Sys2Proof.Machine

/-- One transition of the sequencer (10_state.md R24): idle, it waits; running, it performs the procedure of the
current item at the position's micro-step. -/
def blockStep (s : State) : Outcome :=
  match s.seq with
  | .idle => .next s
  | .run _ its i _ =>
    match its[i]? with
    | some (.mode m) => exec (.setMode m) s
    | some (.byte b) => exec (.shiftByte b) s
    | none => .fault .positionOutOfRange

/-- One step with the host's next action. A request is executed when the block is idle and refused while it is busy
(R172); it is never queued, dropped or interleaved. A request the host holds until the block is idle is not yet
presented, and the block steps on. Reset works at any time (R180) and leaves the latches at `levels`, the OPEN parameter
`RESET_LEVELS` (00_scope.md R5; log entry 1). -/
def hostStep (levels : Latches) (s : State) : Outcome :=
  match s.host with
  | [] => blockStep s
  | .pass :: rest => blockStep { s with host := rest }
  | .reset :: rest => .next ({ s with host := rest }.resetBlock levels)
  | .request op :: rest =>
    match s.seq with
    | .idle => exec op { s with host := rest }
    | .run _ _ _ _ => .refused .requestWhileBusy
  | .requestWhenIdle op :: rest =>
    match s.seq with
    | .idle => exec op { s with host := rest }
    | .run _ _ _ _ => blockStep s

/-- The state in which the next step runs exactly this instruction. A public operation: the block idle, the host
presenting it. An internal procedure, which no host can request: an operation that performs it, at the micro-step
where the procedure begins, and a host that lets the block step (log entry 20). -/
def placeInstr (op : Instr) (s : State) : State :=
  match op with
  | .shiftByte b =>
    { s with seq := .run (.write [b]) (items (.write [b])) 1 0, host := .pass :: s.host }
  | .clearRegister =>
    { s with seq := .run (.write [0#8]) (items (.write [0#8])) 1 0, host := .pass :: s.host }
  | .setMode true =>
    { s with seq := .run (.write [0#8]) (items (.write [0#8])) 0 0, host := .pass :: s.host }
  | .setMode false =>
    { s with seq := .run .home (items .home) 0 0, host := .pass :: s.host }
  | op => { s with seq := .idle, host := .request op :: s.host }

/-- `placeInstr` of the instruction the opcode table's bits decode to; unchanged where they decode to none. -/
def placeTableWord (s : State) (nbits w : Nat) : State :=
  match decodeTableWord nbits w with
  | some op => placeInstr op s
  | none => s

end Sys2Proof.Machine
end

