-- ==== Sys2Proof/Machine/Step.lean ====
section
/-! DEFINITION. One step, and where the next instruction stands. -/

namespace Sys2Proof.Machine

/-- One step of the machine: the host's next action, or else the sequencer's transition; with every line unspecified
after a reset (10_state.md R31). -/
def step (s : State) : Host.Outcome State Fault Refusal := hostStep Latches.reset s

/-- `s` with the instruction of these table bits placed so that the very next step runs it (log entry 20). -/
def State.withFetchWord (s : State) (nbits w : Nat) : State := placeTableWord s nbits w

end Sys2Proof.Machine
end

