-- ==== Sys2Proof/Machine/Observe.lean ====
section
/-! DEFINITION. What an outside observer makes of a trace (00_scope.md R9; decision D15): the trace and report of an
operation as pure functions of the request (20_memory.md R56), the serial frame at the clock pulses (R71), and,
under the assumptions of R63 to R66, the LCD words. Nothing here is read by a step. -/

namespace Sys2Proof.Machine

/-- The error a request is answered with, if any (60_exceptions.md R160 to R162). -/
def requestError : Instr → Option Report
  | .construct => none
  | .home => none
  | .clear => none
  | .setEntryMode _ _ => none
  | .setCursorMode _ _ => none
  | .displayOff => none
  | .setCursor x y => if cursorInRange x y then none else some (.rangeError x y)
  | .shiftCursorLeft _ => none
  | .shiftCursorRight _ => none
  | .shiftDisplayLeft _ => none
  | .shiftDisplayRight _ => none
  | .write string => lengthError string
  | .shiftByte _ => none
  | .clearRegister => none
  | .setMode _ => none

/-- The events of a list of items, in order. -/
def itemEvents (its : List Item) : List Event := its.flatMap Item.steps

/-- The trace of a request (R56, R144): the walk over its items, or nothing for an error. -/
def opEvents (op : Instr) : List Event :=
  match requestError op with
  | some _ => []
  | none => itemEvents (items op)

/-- The one report that answers a request (R163, R172). -/
def opReport (op : Instr) : Report :=
  match requestError op with
  | some r => r
  | none => .done

/-- The levels of all five lines at every pulse of the register clock and of the LCD enable (just after the write of 1),
from latches `L` on. -/
def levelsAtPulses (L : Latches) : List Event → List Latches
  | [] => []
  | .set .registerClock true :: es =>
    let L' := L.set .registerClock true
    L' :: levelsAtPulses L' es
  | .set .lcdClock true :: es =>
    let L' := L.set .lcdClock true
    L' :: levelsAtPulses L' es
  | e :: es => levelsAtPulses (L.apply e) es

/-- The data and clear levels at every pulse of the register clock (R71), from latches `L` on. -/
def serialPulses (L : Latches) : List Event → List (Option Level × Option Level)
  | [] => []
  | .set .registerClock true :: es =>
    (L.registerData, L.registerClear) :: serialPulses (L.set .registerClock true) es
  | e :: es => serialPulses (L.apply e) es

/-- The byte whose bits, least significant first, are the first eight of these levels, if all are known. -/
def byteOfLevels : List (Option Level) → Option Byte
  | some b0 :: some b1 :: some b2 :: some b3 :: some b4 :: some b5 :: some b6 :: some b7 :: _ =>
    some (BitVec.ofBool b7 ++ BitVec.ofBool b6 ++ BitVec.ofBool b5 ++ BitVec.ofBool b4 ++
      BitVec.ofBool b3 ++ BitVec.ofBool b2 ++ BitVec.ofBool b1 ++ BitVec.ofBool b0)
  | _ => none

/-- What the LCD samples with these levels on its lines and these levels clocked in (R63, R65): `none` where one is
unspecified (R66). -/
def sampledWord (L : Latches) (shifted : List (Option Level)) : Option LcdWord :=
  match L.lcdModeSelect with
  | some m => (byteOfLevels shifted).map (fun b => BitVec.ofBool m ++ b)
  | none => none

/-- The LCD words an LCD receives from a trace UNDER the spec's assumptions about the devices, which are premises and
not behaviour of the block (20_memory.md R63 to R66; log entry 19): a register-clear empties the register (R64), data
pin `k` then carries the `k`-th level clocked in since (R63), and the LCD samples its pins and the mode line at the
enable pulse and at no other time (R65). `shifted` holds the levels clocked in since the clear line last moved. The word
is received when its enable pulse is completed, the line written 0 after 1: a pulse that a reset cuts short delivers
none (70_reset_and_hazards.md R189). -/
def lcdWordsSeen (L : Latches) (shifted : List (Option Level)) : List Event → List (Option LcdWord)
  | [] => []
  | .set .registerClear v :: es => lcdWordsSeen (L.set .registerClear v) [] es
  | .set .registerClock true :: es =>
    lcdWordsSeen (L.set .registerClock true) (shifted ++ [L.registerData]) es
  | .set .lcdClock false :: es =>
    if L.lcdClock = some true then sampledWord L shifted :: lcdWordsSeen (L.set .lcdClock false) shifted es
    else lcdWordsSeen (L.set .lcdClock false) shifted es
  | e :: es => lcdWordsSeen (L.apply e) shifted es

/-- The LCD words of an item list, `m` the level its last `Mode` item set (R66). -/
def itemWords (m : Level) : List Item → List LcdWord
  | [] => []
  | .mode m' :: its => itemWords m' its
  | .byte b :: its => (BitVec.ofBool m ++ b) :: itemWords m its

/-- The least time a trace takes, in milliseconds: each Delay lasts at least `T_DELAY` (R101, R192). -/
def minElapsedMs (es : List Event) : Nat := Config.tDelayMs * es.count .delay

end Sys2Proof.Machine
end

