-- ==== Sys2Proof/Safety.lean ====
section
/-! DEFINITION. The terms the statements use: runs, the invariant of the running block, and the host's one duty. -/

namespace Sys2Proof.Machine

/-- `n` steps, stopping at the first fault or refusal. -/
def stepN : Nat → State → Outcome
  | 0, s => .next s
  | n + 1, s =>
    match step s with
    | .next t => stepN n t
    | .fault f => .fault f
    | .refused r => .refused r

/-- The latches before anything is written. -/
def Latches.blank : Latches := ⟨none, none, none, none, none⟩

/-- The mode level of an operation: 1 for `write`, 0 for every other (41_mode_selector.md R122). -/
def modeOf : Instr → Level
  | .write _ => true
  | _ => false

/-- The number of bytes a valid operation sends (42_lcd_driver_ops.md R146). -/
def byteCount : Instr → Nat
  | .construct => 3
  | .shiftCursorLeft step => (max step 0).toNat
  | .shiftCursorRight step => (max step 0).toNat
  | .shiftDisplayLeft step => (max step 0).toNat
  | .shiftDisplayRight step => (max step 0).toNat
  | .write string => string.length
  | _ => 1

/-- Whether the sequencer stands between micro-steps 61 and 62 of a byte, the enable pulse (40_register_shifter.md R108). -/
def inEnablePulse : Sequencer → Bool
  | .idle => false
  | .run _ its i j =>
    match its[i]? with
    | some (.byte _) => decide (j = 62)
    | some (.mode _) => false
    | none => false

/-- The events an operation with items `its` has performed when its position is `RUN(i, j)`. -/
def performed (its : List Item) (i j : Nat) : List Event :=
  itemEvents (its.take i) ++ (itemEvents (its[i]?.toList)).take j

/-- The micro-steps an operation with items `its` still has to perform at `RUN(i, j)`. -/
def remaining (its : List Item) (i j : Nat) : Nat := (itemEvents its).length - (performed its i j).length

/-- Every line these events write holds the level they last wrote to it (10_state.md R21). -/
def Latches.agrees (L : Latches) (es : List Event) : Prop :=
  ∀ line v, (Latches.blank.after es).get line = some v → L.get line = some v

/-- What holds while an operation runs. -/
structure RunInv (s : State) (req : Instr) (its : List Item) (i j : Nat) : Prop where
  /-- `REQ` is one of the twelve operations (R80). -/
  requestable : req.isPublic = true
  /-- `REQ` passed its validation (R164). -/
  validated : requestError req = none
  /-- `ITEMS = items(REQ)` (R25). -/
  expansion : its = items req
  /-- `pc` is a position of `ITEMS` (R24). -/
  position : ∃ item, its[i]? = some item ∧ j < item.steps.length
  /-- The trace ends with the events performed so far (R59). -/
  traced : performed its i j <:+ s.trace
  /-- The latches hold the levels last written (R21). -/
  latched : s.lines.agrees (performed its i j)

/-- The invariant of the machine: whatever operation runs, it runs as R20 to R25 say. -/
def BlockInv (s : State) : Prop :=
  match s.seq with
  | .idle => True
  | .run req its i j => RunInv s req its i j

/-- The host keeps its one duty with this action: it presents a request only when the block is idle, and only one of
the twelve operations (60_exceptions.md R172; 42_lcd_driver_ops.md R145). -/
def HostAction.dutiful : HostAction → Bool
  | .requestWhenIdle op => op.isPublic
  | .request _ => false
  | .pass => true
  | .reset => true

/-- The host keeps its duty in all it will do. -/
def State.hostDutiful (s : State) : Bool := s.host.all HostAction.dutiful

/-- The micro-step table of `shiftByte(b)`, as 40_register_shifter.md R105 tabulates it. -/
def shiftByteTable (b : Byte) (j : Nat) : Option Event :=
  if j = 0 then some (.set .registerClear false)
  else if j ≤ 30 then
    if j % 3 = 1 then some (.set .registerData false)
    else if j % 3 = 2 then some (.set .registerClock true)
    else some (.set .registerClock false)
  else if j = 31 then some (.set .registerClear true)
  else if j = 32 then some .delay
  else if j = 33 then some (.set .registerClock false)
  else if j ≤ 57 then
    if j % 3 = 1 then some (.set .registerData (b.getLsbD ((j - 34) / 3)))
    else if j % 3 = 2 then some (.set .registerClock true)
    else some (.set .registerClock false)
  else if j = 58 then some (.set .registerClock true)
  else if j = 59 then some (.set .registerClock false)
  else if j = 60 then some .delay
  else if j = 61 then some (.set .lcdClock true)
  else if j = 62 then some (.set .lcdClock false)
  else if j = 63 then some .delay
  else none

/-- A write of the data line, or a rise of the register clock. -/
def Event.isDataOrRise : Event → Bool
  | .set .registerData _ => true
  | .set .registerClock v => v
  | .set .registerClear _ => false
  | .set .lcdClock _ => false
  | .set .lcdModeSelect _ => false
  | .delay => false

/-- The state after the micro-step `e` of an item of `len` micro-steps at `RUN(i, j)`, as 10_state.md R24 gives it: one
event, and the position at the next micro-step, else at the next item, else `IDLE` with the report `Done`. -/
def afterMicroStep (s : State) (req : Instr) (its : List Item) (i j len : Nat) (e : Event) : State where
  lines := s.lines.apply e
  seq :=
    if j + 1 < len then .run req its i (j + 1)
    else if i + 1 < its.length then .run req its (i + 1) 0
    else .idle
  trace := s.trace ++ [e]
  reports := s.reports ++ if j + 1 < len ∨ i + 1 < its.length then [] else [.done]
  host := s.host

/-- `op` performs exactly these items from the idle state `s` (42_lcd_driver_ops.md R130): its request is accepted, and
with a quiet host the walk over the items then takes one step per event, leaves the trace and the latches as these
events say and the block idle, and answers with the one report `Done`. -/
def Performs (op : Instr) (its : List Item) (s : State) : Prop :=
  exec op s = .next { s with seq := .run op its 0 0 } ∧
  stepN (itemEvents its).length { s with seq := .run op its 0 0, host := [] } =
    .next { s with
      lines := s.lines.after (itemEvents its)
      seq := .idle
      trace := s.trace ++ itemEvents its
      reports := s.reports ++ [.done]
      host := [] }

/-- `op` is answered at once with this error from the idle state `s` (60_exceptions.md R164): nothing but the report
changes. -/
def Rejects (op : Instr) (r : Report) (s : State) : Prop :=
  exec op s = .next { s with reports := s.reports ++ [r] }

end Sys2Proof.Machine
end

