-- ==== Sys2Proof/Certificates/Slice0/Obligations.lean ====
section
/-! DEFINITION. The statements for the provers, from the numbered rules of spec/. -/

open Sys2Proof Sys2Proof.Machine

/-! Encodings (30_encoding.md). -/

/-- One word of each row of the opcode table decodes to the row's instruction (R72, R71, R120); the numbering of
the bits is log entry 17's, and reading 0x38 as `construct`, 0x06 alone as `setEntryMode`, one shift word as step 1 and
one character word as a string of one is log entry 18's. -/
def Obligations.TableWordsDecodeToTheirRows : Prop :=
  decodeTableWord 16 0b000111000 = some .construct ∧
  decodeTableWord 16 0b000000010 = some .home ∧
  decodeTableWord 16 0b000000001 = some .clear ∧
  decodeTableWord 16 0b000000110 = some (.setEntryMode true false) ∧
  decodeTableWord 16 0b000001110 = some (.setCursorMode true false) ∧
  decodeTableWord 16 0b000001000 = some .displayOff ∧
  decodeTableWord 16 0b011000011 = some (.setCursor 3 1) ∧
  decodeTableWord 16 0b000010000 = some (.shiftCursorLeft 1) ∧
  decodeTableWord 16 0b000010100 = some (.shiftCursorRight 1) ∧
  decodeTableWord 16 0b000011000 = some (.shiftDisplayLeft 1) ∧
  decodeTableWord 16 0b000011100 = some (.shiftDisplayRight 1) ∧
  decodeTableWord 16 0b101001000 = some (.write [0x48#8]) ∧
  decodeTableWord 24 0b0000000000101001011 = some (.shiftByte 0xA5#8) ∧
  decodeTableWord 16 0b0000000000 = some .clearRegister ∧
  decodeTableWord 8 0b1 = some (.setMode true)

/-- Decoding the encoding of a well-formed instruction gives it back, in the spelling that says `blink` implies
`active` (R74); a shift of step 0 or less emits no word, and no words decode to nothing. The block
never decodes (R78): the readings are log entry 18's. -/
def Obligations.DecodeOfEncodeIsTheInstruction : Prop :=
  ∀ op : Instr, op.wellFormed = true →
    (encode op = .words [] → decode (encode op) = .error .noWords) ∧
    (encode op ≠ .words [] → decode (encode op) = .ok op.canonical)

/-- What decodes to an instruction is its encoding, and the instruction is well-formed. -/
def Obligations.DecodeReadsOnlyEncodings : Prop :=
  ∀ (e : Encoded) (op : Instr), decode e = .ok op →
    op.wellFormed = true ∧ op.canonical = op ∧ encode op = e

/-- The words of an operation's expansion (R82) are the words of the opcode map (R72), whatever mode the line held. -/
def Obligations.ExpansionSpellsTheTableWords : Prop :=
  ∀ (op : Instr) (m : Level), op.isPublic = true → requestError op = none →
    itemWords m (items op) = (encode op).lcdWords

/-- In command mode the block emits exactly the 47 byte values of R72; in character mode every value (R78). -/
def Obligations.CommandBytesAreExactlyThe47 : Prop :=
  (∀ b : Byte,
    (∃ op : Instr, op.isPublic = true ∧ requestError op = none ∧
      (0#1 ++ b : LcdWord) ∈ itemWords false (items op)) ↔
    b ∈ [0x01#8, 0x02#8, 0x04#8, 0x05#8, 0x06#8, 0x07#8, 0x08#8, 0x0C#8, 0x0E#8, 0x0F#8, 0x10#8, 0x14#8, 0x18#8,
        0x1C#8, 0x38#8] ∨ (0x80#8 ≤ b ∧ b ≤ 0x8F#8) ∨ (0xC0#8 ≤ b ∧ b ≤ 0xCF#8)) ∧
  (∀ b : Byte,
    ∃ op : Instr, op.isPublic = true ∧ requestError op = none ∧
      (1#1 ++ b : LcdWord) ∈ itemWords false (items op))

/-- The byte of `setCursor` is the integer sum of R75, never more than 0xCF, and its bits are `{1, y, 0, 0, x[3:0]}`;
outside the ranges no byte is sent. -/
def Obligations.SetCursorByteIsSumAndPattern : Prop :=
  (∀ x y : Int, 0 ≤ x → x ≤ 15 → 0 ≤ y → y ≤ 1 →
    ((setCursorByte x y).toNat : Int) = 0x80 + x + (if y = 1 then 0x40 else 0) ∧
    (setCursorByte x y).toNat ≤ 0xCF ∧
    setCursorByte x y = 1#1 ++ BitVec.ofInt 1 y ++ 0#1 ++ 0#1 ++ BitVec.ofInt 4 x) ∧
  (∀ x y : Int, x < 0 ∨ x > 15 ∨ y < 0 ∨ y > 1 → opEvents (.setCursor x y) = []) ∧
  setCursorByte 0 0 = 0x80#8 ∧ setCursorByte 15 1 = 0xCF#8

/-- The DDRAM addresses `setCursor` can emit, in bits 6 to 0 of its byte, are exactly 0x00 to 0x0F and 0x40 to 0x4F
(20_memory.md R57). -/
def Obligations.SetCursorEmitsTheThirtyTwoAddresses : Prop :=
  ∀ a : BitVec 7,
    (∃ x y : Int, requestError (.setCursor x y) = none ∧
      items (.setCursor x y) = [.mode false, .byte (1#1 ++ a)] ∧ (a.toNat : Int) = x + (if y = 1 then 0x40 else 0)) ↔
    a.toNat ≤ 0x0F ∨ (0x40 ≤ a.toNat ∧ a.toNat ≤ 0x4F)

/-! The internal procedures (40_register_shifter.md, 41_mode_selector.md). -/

/-- `shiftByte(b)` has 64 micro-steps, those of the table of R105, and at position `RUN(i, j)` it performs the `j`-th:
it answers the next state R24 gives; there are no others. That executing the procedure performs the one micro-step at
the position is the model's (log entry 5), the advance and `Done` are the spec's decision D6. -/
def Obligations.ShiftBytePerformsItsTable : Prop :=
  ∀ (b : Byte) (s : State) (req : Instr) (its : List Item) (i j : Nat), s.seq = .run req its i j →
    (∀ e, shiftByteTable b j = some e →
      exec (.shiftByte b) s = .next (afterMicroStep s req its i j 64 e)) ∧
    ((∃ e, shiftByteTable b j = some e) ↔ j < 64)

/-- One whole `shiftByte(b)` by the machine's step with a quiet host: 64 steps, the 64 events of R105 in order, the end
levels of R108 whatever the latches held before, and no line of the mode select touched. -/
def Obligations.ShiftByteRunsItsSixtyFourSteps : Prop :=
  ∀ (b : Byte) (s : State) (req : Instr) (its : List Item) (i : Nat),
    s.seq = .run req its i 0 → its[i]? = some (.byte b) → s.host = [] →
    ∃ t, stepN 64 s = .next t ∧
      t.lines = ⟨some (b.getLsbD 7), some false, some true, some false, s.lines.lcdModeSelect⟩ ∧
      (∃ es, t.trace = s.trace ++ es ∧ es.length = 64 ∧ ∀ j, j < 64 → es[j]? = shiftByteTable b j) ∧
      t.seq = (if i + 1 < its.length then .run req its (i + 1) 0 else .idle) ∧
      t.reports = s.reports ++ (if i + 1 < its.length then [] else [.done])

/-- `clearRegister()` performs micro-step `j` of R104 for `j < 33`, as the first part of a `shiftByte`: the two do the
same there, whatever the byte. That executing it performs the micro-step at the position is the model's (log
entry 5). -/
def Obligations.ClearRegisterOpensEveryShiftByte : Prop :=
  ∀ (s : State) (req : Instr) (its : List Item) (i j : Nat), s.seq = .run req its i j → j < 33 →
    ∃ e, shiftByteTable 0#8 j = some e ∧
      exec .clearRegister s = .next (afterMicroStep s req its i j 64 e) ∧
      ∀ b, exec (.shiftByte b) s = exec .clearRegister s

/-- The register-clear cycle as a whole (R104): from the start of any byte, 33 steps of the machine give exactly the
clear line low, ten zero bits, the clear line high and a Delay, and leave data 0, clock 0, clear 1 and the other two
lines untouched. -/
def Obligations.ClearRegisterRunsItsThirtyThreeSteps : Prop :=
  ∀ (b : Byte) (s : State) (req : Instr) (its : List Item) (i : Nat),
    s.seq = .run req its i 0 → its[i]? = some (.byte b) → s.host = [] →
    stepN 33 s = .next { s with
      lines := ⟨some false, some false, some true, s.lines.lcdClock, s.lines.lcdModeSelect⟩
      seq := .run req its i 33
      trace := s.trace ++ ([.set .registerClear false] ++
        (List.replicate 10 [Event.set .registerData false, .set .registerClock true, .set .registerClock false]).flatten ++
        [.set .registerClear true, .delay]) }

/-- `setMode(m)` is one micro-step and one event `Set(lcdModeSelect, m)`, 1 for true; no other line is written, and it
is done; its default is false, and it is bit 8 of LCDW9 (R120). That executing it performs the micro-step at `RUN(i, 0)` is
the model's (log entry 5), the advance and `Done` are R24's (the spec's decision D6). -/
def Obligations.SetModeWritesOnlyTheModeLine : Prop :=
  (∀ (m : Bool) (s : State) (req : Instr) (its : List Item) (i : Nat), s.seq = .run req its i 0 →
    exec (.setMode m) s = .next { s with
      lines := ⟨s.lines.registerData, s.lines.registerClock, s.lines.registerClear, s.lines.lcdClock, some m⟩
      seq := if i + 1 < its.length then .run req its (i + 1) 0 else .idle
      trace := s.trace ++ [.set .lcdModeSelect m]
      reports := s.reports ++ if i + 1 < its.length then [] else [.done] }) ∧
  Instr.setModeDefault = .setMode false ∧
  (∀ m, encode (.setMode m) = .modeBit (if m then 1#1 else 0#1))

/-- A position outside the ranges of R24 has no meaning: the model stops there with a fault of its own (log entry 8). -/
def Obligations.PositionsOutsideTheTablesAreFaults : Prop :=
  ∀ (s : State) (req : Instr) (its : List Item) (i j : Nat), s.seq = .run req its i j →
    (∀ b, 64 ≤ j → exec (.shiftByte b) s = .fault .positionOutOfRange) ∧
    (33 ≤ j → exec .clearRegister s = .fault .positionOutOfRange) ∧
    (∀ m, 1 ≤ j → exec (.setMode m) s = .fault .positionOutOfRange) ∧
    (its.length ≤ i → s.host = [] → step s = .fault .positionOutOfRange)

/-- The two kinds of micro-step (R100, R101): a `Set` gives its line the level, changes no other latch and appends its
event, also when the line held the level already; a `Delay` changes no latch and appends its event. -/
def Obligations.MicroStepsChangeOneLatchAndAppendOneEvent : Prop :=
  ∀ s : State,
    (∀ line v, (s.perform (.set line v)).lines.get line = some v ∧
      (∀ other, other ≠ line → (s.perform (.set line v)).lines.get other = s.lines.get other) ∧
      s.perform (.set line v) =
        { s with lines := (s.perform (.set line v)).lines, trace := s.trace ++ [.set line v] }) ∧
    s.perform .delay = { s with trace := s.trace ++ [.delay] }

/-- The serial frame of `shiftByte(b)`: the data and clear levels at its 19 register-clock pulses are those of R71,
whatever the latches held before; a pulse is a rise and at once a fall, and the data line is written before each of the
first 18 and not before the last. -/
def Obligations.SerialFrameHasItsNineteenPulses : Prop :=
  (∀ (L : Latches) (b : Byte), serialPulses L (shiftByteSteps b) =
      List.replicate 10 (some false, some false) ++
      [(some (b.getLsbD 0), some true), (some (b.getLsbD 1), some true), (some (b.getLsbD 2), some true),
        (some (b.getLsbD 3), some true), (some (b.getLsbD 4), some true), (some (b.getLsbD 5), some true),
        (some (b.getLsbD 6), some true), (some (b.getLsbD 7), some true), (some (b.getLsbD 7), some true)]) ∧
  (∀ (b : Byte) (j : Nat), (shiftByteSteps b)[j]? = some (.set .registerClock true) →
    (shiftByteSteps b)[j + 1]? = some (.set .registerClock false)) ∧
  (∀ b : Byte, (shiftByteSteps b).filter Event.isDataOrRise =
    (List.replicate 10 [Event.set .registerData false, .set .registerClock true]).flatten ++
      [0, 1, 2, 3, 4, 5, 6, 7].flatMap (fun i =>
        [Event.set .registerData (b.getLsbD i), .set .registerClock true]) ++
      [.set .registerClock true])

/-- The shape of every `shiftByte(b)`, its event counts and its least duration (R106): first exactly one register-clear
cycle, then the eight data bits least significant first, one extra clock pulse, a Delay, one enable pulse, a Delay. -/
def Obligations.ShiftByteShapeAndCounts : Prop :=
  ∀ b : Byte,
    shiftByteSteps b =
      [.set .registerClear false] ++
      (List.replicate 10 [Event.set .registerData false, .set .registerClock true, .set .registerClock false]).flatten ++
      [.set .registerClear true, .delay, .set .registerClock false] ++
      [0, 1, 2, 3, 4, 5, 6, 7].flatMap (fun i =>
        [Event.set .registerData (b.getLsbD i), .set .registerClock true, .set .registerClock false]) ++
      [.set .registerClock true, .set .registerClock false, .delay, .set .lcdClock true, .set .lcdClock false, .delay] ∧
    (shiftByteSteps b).length = 64 ∧
    (shiftByteSteps b).count (.set .registerClock true) = 19 ∧
    (shiftByteSteps b).count (.set .registerClock false) = 20 ∧
    (shiftByteSteps b).count (.set .registerData false) + (shiftByteSteps b).count (.set .registerData true) = 18 ∧
    (shiftByteSteps b).count (.set .registerClear false) = 1 ∧
    (shiftByteSteps b).count (.set .registerClear true) = 1 ∧
    (shiftByteSteps b).count (.set .lcdClock true) = 1 ∧
    (shiftByteSteps b).count (.set .lcdClock false) = 1 ∧
    (shiftByteSteps b).count (.set .lcdModeSelect false) = 0 ∧
    (shiftByteSteps b).count (.set .lcdModeSelect true) = 0 ∧
    (shiftByteSteps b).count .delay = 3 ∧
    minElapsedMs (shiftByteSteps b) = 3

/-! The public operations (42_lcd_driver_ops.md). -/

/-- `construct` performs function set 0x38, then the cursor-mode and entry-mode setters with their defaults (R131). In
this and the following statements, that accepting is a step of its own is the model's (log entry 7). -/
def Obligations.ConstructPerforms : Prop :=
  (∀ s : State, s.seq = .idle →
    Performs .construct
      [.mode false, .byte 0x38#8, .mode false, .byte 0x0C#8, .mode false, .byte 0x06#8] s) ∧
  (opEvents .construct).length = 195 ∧ minElapsedMs (opEvents .construct) = 9 ∧
  encode .construct = .words [0b000111000#9, 0b000001100#9, 0b000000110#9]

/-- `home`, `clear` and `displayOff` each select command mode once and send their one byte (R132, R133, R136). -/
def Obligations.SingleByteCommandsPerform : Prop :=
  ∀ s : State, s.seq = .idle →
    Performs .home [.mode false, .byte 0x02#8] s ∧
    Performs .clear [.mode false, .byte 0x01#8] s ∧
    Performs .displayOff [.mode false, .byte 0x08#8] s ∧
    (opEvents .home).length = 65 ∧ (opEvents .clear).length = 65 ∧ (opEvents .displayOff).length = 65 ∧
    encode .home = .words [0b000000010#9] ∧ encode .clear = .words [0b000000001#9] ∧
    encode .displayOff = .words [0b000001000#9]

/-- `setEntryMode(d, s)` sends 0x04 to 0x07 by the table of R73, and `setCursorMode(a, k)` 0x0C, 0x0E or 0x0F by the
table of R74: every combination of operands. The entry-mode assignment is the spec's decision D4. -/
def Obligations.SettersPerform : Prop :=
  ∀ s : State, s.seq = .idle →
    Performs (.setEntryMode false false) [.mode false, .byte 0x04#8] s ∧
    Performs (.setEntryMode false true) [.mode false, .byte 0x05#8] s ∧
    Performs (.setEntryMode true false) [.mode false, .byte 0x06#8] s ∧
    Performs (.setEntryMode true true) [.mode false, .byte 0x07#8] s ∧
    Performs (.setCursorMode false false) [.mode false, .byte 0x0C#8] s ∧
    Performs (.setCursorMode true false) [.mode false, .byte 0x0E#8] s ∧
    Performs (.setCursorMode false true) [.mode false, .byte 0x0F#8] s ∧
    Performs (.setCursorMode true true) [.mode false, .byte 0x0F#8] s ∧
    (∀ d v, (opEvents (.setEntryMode d v)).length = 65 ∧ (opEvents (.setCursorMode d v)).length = 65)

/-- `setCursor(x, y)` in range sends `0x80 + x + (0x40 if y = 1 else 0)`; out of range, in either coordinate or both, it
is answered with the one error `RangeError(x, y)`, which carries both (decision D16), and nothing else happens
(R137, R162). -/
def Obligations.SetCursorPerformsOrRejects : Prop :=
  ∀ (s : State) (x y : Int), s.seq = .idle →
    (0 ≤ x ∧ x ≤ 15 ∧ 0 ≤ y ∧ y ≤ 1 →
      Performs (.setCursor x y)
        [.mode false, .byte (BitVec.ofInt 8 (0x80 + x + (if y = 1 then 0x40 else 0)))] s ∧
      (opEvents (.setCursor x y)).length = 65) ∧
    (x < 0 ∨ x > 15 ∨ y < 0 ∨ y > 1 →
      Rejects (.setCursor x y) (.rangeError x y) s ∧ opEvents (.setCursor x y) = [])

/-- Each shift sends its byte `step` times, and not at all when `step` is 0 or negative; the one mode selection is made
in every case (decision D3), and no `step` is an error (decision D13; R138 to R141, R143). -/
def Obligations.ShiftsRepeatTheirByte : Prop :=
  ∀ (s : State), s.seq = .idle →
    (∀ n : Nat,
      Performs (.shiftCursorLeft n) (.mode false :: List.replicate n (.byte 0x10#8)) s ∧
      Performs (.shiftCursorRight n) (.mode false :: List.replicate n (.byte 0x14#8)) s ∧
      Performs (.shiftDisplayLeft n) (.mode false :: List.replicate n (.byte 0x18#8)) s ∧
      Performs (.shiftDisplayRight n) (.mode false :: List.replicate n (.byte 0x1C#8)) s ∧
      (itemEvents (.mode false :: List.replicate n (.byte 0x10#8))).length = 1 + 64 * n) ∧
    (∀ step : Int, step < 0 →
      Performs (.shiftCursorLeft step) [.mode false] s ∧
      Performs (.shiftCursorRight step) [.mode false] s ∧
      Performs (.shiftDisplayLeft step) [.mode false] s ∧
      Performs (.shiftDisplayRight step) [.mode false] s)

/-- `write(string)` of 1 to 16 characters selects character mode once and sends one byte per character, first to last,
unchanged; the empty string and the over-long one are answered with the length error of R161 and nothing else
happens (R142). -/
def Obligations.WritePerformsOrRejects : Prop :=
  ∀ (s : State) (string : List Byte), s.seq = .idle →
    (1 ≤ string.length ∧ string.length ≤ 16 →
      Performs (.write string) (.mode true :: string.map .byte) s ∧
      (opEvents (.write string)).length = 1 + 64 * string.length) ∧
    (string.length = 0 → Rejects (.write string) .lengthErrorEmpty s) ∧
    (string.length > 16 → Rejects (.write string) (.lengthErrorOverflow (string.length - 16)) s)

/-- The size of each operation (R146): micro-steps, `setMode` and enable pulses, register-clock pulses, Delays. -/
def Obligations.OperationSizes : Prop :=
  ∀ op : Instr, op.isPublic = true →
    ∃ modes bytes : Nat,
      (opEvents op).length = modes + 64 * bytes ∧
      (opEvents op).count (.set .lcdModeSelect false) + (opEvents op).count (.set .lcdModeSelect true) = modes ∧
      (opEvents op).count (.set .registerClock true) = 19 * bytes ∧
      (opEvents op).count (.set .lcdClock true) = bytes ∧
      (opEvents op).count .delay = 3 * bytes ∧
      (requestError op ≠ none → modes = 0 ∧ bytes = 0) ∧
      (requestError op = none → modes = if op = .construct then 3 else 1) ∧
      (requestError op = none → bytes = byteCount op)

/-- The levels after a completed operation (10_state.md R32), from any latches: the data line holds bit 7 of the last byte
sent, the mode line 1 after `write` and 0 after every other operation; an operation that sends no byte leaves the four
other lines as they were. That accepting the request is a step of its own is log entry 7's. -/
def Obligations.EndLevelsOfAnOperation : Prop :=
  ∀ (s : State) (op : Instr), op.isPublic = true → requestError op = none → s.seq = .idle →
    s.host = [.requestWhenIdle op] →
    ∃ t, stepN (1 + (opEvents op).length) s = .next t ∧ t.seq = .idle ∧ t.reports = s.reports ++ [.done] ∧
      (∀ w, (encode op).lcdWords.getLast? = some w →
        t.lines = ⟨some (w.getLsbD 7), some false, some true, some false, some (modeOf op)⟩) ∧
      ((encode op).lcdWords = [] →
        t.lines = ⟨s.lines.registerData, s.lines.registerClock, s.lines.registerClear, s.lines.lcdClock,
          some (modeOf op)⟩)

/-- The mode line is stable before every enable pulse (20_memory.md R61): in the trace of any operation, between a write of
the mode line and a following rise of the enable line lie at least 61 events, at least two of them Delays. -/
def Obligations.ModeIsStableBeforeTheEnable : Prop :=
  ∀ (op : Instr) (m : Level) (before between after : List Event), op.isPublic = true →
    opEvents op = before ++ .set .lcdModeSelect m :: (between ++ .set .lcdClock true :: after) →
    61 ≤ between.length ∧ 2 ≤ between.count .delay

/-! Errors and reports (60_exceptions.md). -/

/-- The validation errors (R160 to R162, R164): `setCursor` out of range and `write` of no or more than 16 characters are
answered at once with their error, nothing else changing; and these are all: every other report an execution adds is
`Done`. The payloads are the spec's decisions D10 and D16 (log entry 14); that raising is one step is log entry 7's. -/
def Obligations.OnlyWriteAndSetCursorRaise : Prop :=
  (∀ (s : State) (x y : Int), s.seq = .idle → x < 0 ∨ x > 15 ∨ y < 0 ∨ y > 1 →
    Rejects (.setCursor x y) (.rangeError x y) s) ∧
  (∀ s : State, s.seq = .idle → Rejects (.write []) .lengthErrorEmpty s) ∧
  (∀ (s : State) (string : List Byte), s.seq = .idle → string.length > 16 →
    Rejects (.write string) (.lengthErrorOverflow (string.length - 16)) s) ∧
  (∀ (op : Instr) (s t : State), exec op s = .next t →
    t.reports = s.reports ∨
    t.reports = s.reports ++ [.done] ∨
    (∃ x y, op = .setCursor x y ∧ (x < 0 ∨ x > 15 ∨ y < 0 ∨ y > 1) ∧
      t = { s with reports := s.reports ++ [.rangeError x y] }) ∨
    (op = .write [] ∧ t = { s with reports := s.reports ++ [.lengthErrorEmpty] }) ∨
    (∃ string, op = .write string ∧ string.length > 16 ∧
      t = { s with reports := s.reports ++ [.lengthErrorOverflow (string.length - 16)] }))

/-- The numeric form of a report: 0 no error, 1 LengthError, 2 RangeError (R163). -/
def Obligations.ReportCodes : Prop :=
  Report.done.code = 0 ∧ Report.lengthErrorEmpty.code = 1 ∧
  (∀ k, (Report.lengthErrorOverflow k).code = 1) ∧ (∀ x y, (Report.rangeError x y).code = 2)

/-! The step, the host and reset. -/

/-- A step runs the presented request (60_exceptions.md R172): when the block is idle and the host's next action is a
request, the step is the execution of that request with the action taken away. The host's actions are
the model's (log entry 3). -/
def Obligations.StepRunsThePresentedRequest : Prop :=
  ∀ (s : State) (op : Instr) (rest : List HostAction), s.seq = .idle →
    (s.host = .request op :: rest ∨ s.host = .requestWhenIdle op :: rest) →
    step s = exec op { s with host := rest }

/-- A step runs the current item's procedure (10_state.md R24): while an operation runs and the host does not interfere,
the step is the execution of `setMode(m)` or `shiftByte(b)` for the item the position names (log entries 3
and 5). -/
def Obligations.StepRunsTheCurrentProcedure : Prop :=
  ∀ (s : State) (req : Instr) (its : List Item) (i j : Nat), s.seq = .run req its i j →
    (∀ m, its[i]? = some (.mode m) →
      (s.host = [] → step s = exec (.setMode m) s) ∧
      (∀ op rest, s.host = .requestWhenIdle op :: rest → step s = exec (.setMode m) s) ∧
      (∀ rest, s.host = .pass :: rest → step s = exec (.setMode m) { s with host := rest })) ∧
    (∀ b, its[i]? = some (.byte b) →
      (s.host = [] → step s = exec (.shiftByte b) s) ∧
      (∀ op rest, s.host = .requestWhenIdle op :: rest → step s = exec (.shiftByte b) s) ∧
      (∀ rest, s.host = .pass :: rest → step s = exec (.shiftByte b) { s with host := rest }))

/-- A table word placed with `withFetchWord` is what the next step runs (log entry 20): a public operation in an idle
block, an internal procedure at the start of an item. -/
def Obligations.FetchedTableWordRuns : Prop :=
  ∀ (s : State) (nbits w : Nat) (op : Instr), decodeTableWord nbits w = some op →
    ∃ s', step (s.withFetchWord nbits w) = exec op s' ∧
      s'.lines = s.lines ∧ s'.trace = s.trace ∧ s'.reports = s.reports ∧ s'.host = s.host ∧
      (op.isPublic = true → s'.seq = .idle) ∧
      (op.isPublic = false → ∃ req i, s'.seq = .run req (items req) i 0)

/-- A request presented while the block is busy has no step: refused, by the host port and by every public operation
(R172; 93 U1; log entry 4). -/
def Obligations.RequestWhileBusyIsRefused : Prop :=
  ∀ (s : State) (req : Instr) (its : List Item) (i j : Nat) (op : Instr), s.seq = .run req its i j →
    (∀ rest, s.host = .request op :: rest → step s = .refused .requestWhileBusy) ∧
    (op.isPublic = true → exec op s = .refused .requestWhileBusy)

/-- A request that is not one of the twelve operations is refused (42_lcd_driver_ops.md R145), by its execution in an idle
block and by the step that would present it. That executing an internal procedure in an idle block is such a request is
the model's (log entry 5). -/
def Obligations.InternalProceduresAreNotRequestable : Prop :=
  ∀ (s : State) (op : Instr), s.seq = .idle → op.isPublic = false →
    exec op s = .refused .notRequestable ∧
    (∀ rest, s.host = .request op :: rest ∨ s.host = .requestWhenIdle op :: rest →
      step s = .refused .notRequestable)

/-- Reset, at any time (70_reset_and_hazards.md R180): idle, the running operation discarded with no event and no report,
every line unspecified, and the next request is accepted. The reset is the spec's decision D8; that what an observer
recorded stays is log entry 2's. -/
def Obligations.ResetAtAnyTime : Prop :=
  ∀ (s : State) (rest : List HostAction), s.host = .reset :: rest →
    ∃ t, step s = .next t ∧
      t = { s with lines := ⟨none, none, none, none, none⟩, seq := .idle, host := rest } ∧
      ∀ op, op.isPublic = true → ∃ u, exec op t = .next u

/-- The state right after reset (10_state.md R31): idle, with no request latched, and every line unspecified, which is no
value and not 0 (decision D8; log entry 1). -/
def Obligations.ResetState : Prop :=
  State.reset.seq = .idle ∧ (∀ line, State.reset.lines.get line = none)

/-- An idle block with a quiet host waits: nothing changes, for any time (R172). The idle step is the model's
(log entry 3). -/
def Obligations.IdleBlockWaits : Prop :=
  ∀ (s : State) (n : Nat), s.seq = .idle → s.host = [] → stepN n s = .next s

/-- `REQ` and `ITEMS` do not change while the block runs (10_state.md R25): every step leaves them as they are, or leaves
the block idle. -/
def Obligations.RequestLatchIsFixedWhileRunning : Prop :=
  ∀ (s t : State) (req : Instr) (its : List Item) (i j : Nat), s.seq = .run req its i j → step s = .next t →
    t.seq = .idle ∨ ∃ i' j', t.seq = .run req its i' j'

/-- A step other than a reset performs at most one event, exactly one when the block is busy; the latches change by that
event alone, every earlier event and report stays, and at most one report is added (20_memory.md R59, R53). That
a busy step performs exactly one event is R24's (decision D6); that acceptance is a step of its own with no event, so that
an idle step performs none, is the model's (log entry 7). -/
def Obligations.AStepPerformsAtMostOneEvent : Prop :=
  ∀ s t : State, step s = .next t → (∀ rest, s.host ≠ .reset :: rest) →
    ∃ (es : List Event) (rs : List Report), t.trace = s.trace ++ es ∧ t.lines = s.lines.after es ∧
      t.reports = s.reports ++ rs ∧ es.length = (if s.busy then 1 else 0) ∧ rs.length ≤ 1

/-- The writers of the lines (10_state.md R22): an event that writes the mode line comes from a `Mode` item and one that
writes any other line from a `Byte` item. -/
def Obligations.OnlySetModeWritesTheModeLine : Prop :=
  ∀ (s t : State) (line : Line) (v : Level), step s = .next t → t.trace = s.trace ++ [.set line v] →
    ∃ (req : Instr) (its : List Item) (i j : Nat), s.seq = .run req its i j ∧
      ((line = .lcdModeSelect ∧ its[i]? = some (.mode v)) ∨
        (line ≠ .lcdModeSelect ∧ ∃ b, its[i]? = some (.byte b)))

/-- No step depends on the latches, the trace or the reports (10_state.md R22; 20_memory.md R56): from states that differ
in these alone, the outcomes are the same but for them, with the same event and report added. -/
def Obligations.BehaviourIgnoresTheLatches : Prop :=
  ∀ (s : State) (L : Latches) (tr : List Event) (rs : List Report),
    (∀ f, step s = .fault f → step { s with lines := L, trace := tr, reports := rs } = .fault f) ∧
    (∀ r, step s = .refused r → step { s with lines := L, trace := tr, reports := rs } = .refused r) ∧
    (∀ t, step s = .next t → ∃ (es : List Event) (rp : List Report) (L' : Latches),
      t.trace = s.trace ++ es ∧ t.reports = s.reports ++ rp ∧
      step { s with lines := L, trace := tr, reports := rs } =
        .next { t with lines := L', trace := tr ++ es, reports := rs ++ rp })

/-! The machine as a whole. -/

/-- The invariant holds at reset. -/
def Obligations.ResetMeetsTheInvariant : Prop := BlockInv State.reset

/-- Every step keeps the invariant: a running operation is one of the twelve, validated, with `ITEMS = items(REQ)`, its
position in range, its events the end of the trace, and the latches at the levels last written (10_state.md R21, R24,
R25). -/
def Obligations.EveryStepKeepsTheInvariant : Prop :=
  ∀ s t : State, BlockInv s → step s = .next t → BlockInv t

/-- While a byte is sent (40_register_shifter.md R107, R108; 70_reset_and_hazards.md R188): the clear line is low exactly
during the ten clear pulses, every data bit is on the data line when the clock rises and `b[7]` from then to the end,
the clock is low during the Delays and the enable pulse, and the mode line already holds the operation's mode. -/
def Obligations.LevelsWhileAByteIsSent : Prop :=
  ∀ (s : State) (req : Instr) (its : List Item) (i j : Nat) (b : Byte), BlockInv s → s.seq = .run req its i j →
    its[i]? = some (.byte b) →
    (1 ≤ j → j ≤ 31 → s.lines.registerClear = some false) ∧
    (32 ≤ j → s.lines.registerClear = some true) ∧
    (∀ k, k < 8 → 35 + 3 * k ≤ j → j ≤ 37 + 3 * k → s.lines.registerData = some (b.getLsbD k)) ∧
    (56 ≤ j → s.lines.registerData = some (b.getLsbD 7)) ∧
    (60 ≤ j → s.lines.registerClock = some false) ∧
    (j = 62 → s.lines.lcdClock = some true) ∧
    (j = 63 → s.lines.lcdClock = some false) ∧
    s.lines.lcdModeSelect = some (modeOf req)

/-- Once the enable line is low between operations it is high only between micro-steps 61 and 62 of a byte, until a reset
(40_register_shifter.md R108; 70_reset_and_hazards.md R188 h). -/
def Obligations.EnableLineIsHighOnlyInItsPulse : Prop :=
  ∀ s t : State, BlockInv s → (∀ rest, s.host ≠ .reset :: rest) → step s = .next t →
    s.lines.lcdClock = some (inEnablePulse s.seq) → t.lines.lcdClock = some (inEnablePulse t.seq)

/-- With a host that keeps its duty no step stops: from every state that meets the invariant the step answers a next state,
which meets it again, with a host that still keeps its duty (60_exceptions.md R160, R172). -/
def Obligations.ADutifulHostNeverStopsTheBlock : Prop :=
  ∀ s : State, BlockInv s → s.hostDutiful = true →
    ∃ t, step s = .next t ∧ BlockInv t ∧ t.hostDutiful = true

/-- Every running operation ends (70_reset_and_hazards.md R192): with a quiet host, after as many steps as it has
micro-steps left it is idle, has performed the rest of its events and no other, and has reported `Done` once. -/
def Obligations.EveryOperationTerminates : Prop :=
  ∀ (s : State) (req : Instr) (its : List Item) (i j : Nat), BlockInv s → s.seq = .run req its i j → s.host = [] →
    0 < remaining its i j ∧
    stepN (remaining its i j) s = .next { s with
      lines := s.lines.after ((itemEvents its).drop (performed its i j).length)
      seq := .idle
      trace := s.trace ++ (itemEvents its).drop (performed its i j).length
      reports := s.reports ++ [.done] }

/-- A program of requests, each presented when the block is idle (95_test_vectors.md part 3): its trace is the traces of
its requests one after the other, each a function of its request alone, with one report each in order
(42_lcd_driver_ops.md R144; 20_memory.md R56; 60_exceptions.md R172). The host's actions and the one step of each
acceptance are the model's (log entries 3 and 7). -/
def Obligations.AProgramsTraceIsItsRequestsTraces : Prop :=
  ∀ (program : List Instr) (s : State), program.all Instr.isPublic = true → s.seq = .idle →
    s.host = program.map .requestWhenIdle →
    stepN ((program.map (fun op => 1 + (opEvents op).length)).sum) s = .next {
      lines := s.lines.after (program.flatMap opEvents)
      seq := .idle
      trace := s.trace ++ program.flatMap opEvents
      reports := s.reports ++ program.map opReport
      host := [] }

/-- Under the assumptions about the devices (20_memory.md R63 to R65) the LCD receives exactly the operation's words of
the opcode map, in order (R66), whatever the lines and the register held before. -/
def Obligations.TheLcdReceivesTheOperationsWords : Prop :=
  ∀ (L : Latches) (shifted : List (Option Level)) (op : Instr), op.isPublic = true → requestError op = none →
    lcdWordsSeen L shifted (opEvents op) = (encode op).lcdWords.map some

/-- The two values of `RS_WRITE_POLICY` differ only in events that write the mode line: the line levels at every clock
and enable pulse, the LCD words, and all other events are the same (30_encoding.md R82). -/
def Obligations.TheModePolicyChangesOnlyModeWrites : Prop :=
  ∀ (op : Instr) (L : Latches) (shifted : List (Option Level)), op.isPublic = true →
    levelsAtPulses L (itemEvents (itemsUnder .beforeEveryByte op)) =
      levelsAtPulses L (itemEvents (itemsUnder .oncePerOperation op)) ∧
    lcdWordsSeen L shifted (itemEvents (itemsUnder .beforeEveryByte op)) =
      lcdWordsSeen L shifted (itemEvents (itemsUnder .oncePerOperation op)) ∧
    (itemEvents (itemsUnder .beforeEveryByte op)).filter
        (fun e => decide (e ≠ .set .lcdModeSelect true ∧ e ≠ .set .lcdModeSelect false)) =
      (itemEvents (itemsUnder .oncePerOperation op)).filter
        (fun e => decide (e ≠ .set .lcdModeSelect true ∧ e ≠ .set .lcdModeSelect false))

/-- Reset in the middle of an operation (70_reset_and_hazards.md R189, R180), after `n` of its micro-steps: these and no
others are in the trace, no report answers it, and the next operation performs its own whole trace, from lines that hold
no value. The host's actions and the one step of each acceptance are the model's (log entries 3 and 7); that the record
of the observer stays is log entry 2's. -/
def Obligations.AResetCutsTheOperationShort : Prop :=
  ∀ (s : State) (op following : Instr) (n : Nat), op.isPublic = true → requestError op = none →
    following.isPublic = true → requestError following = none → s.seq = .idle → n < (opEvents op).length →
    s.host = .requestWhenIdle op :: (List.replicate n .pass ++ [.reset, .requestWhenIdle following]) →
    (∃ t, stepN (1 + n) s = .next t ∧ t.busy = true ∧ t.reports = s.reports ∧
      t.trace = s.trace ++ (opEvents op).take n ∧ t.lines = s.lines.after ((opEvents op).take n)) ∧
    stepN (1 + n + (1 + (1 + (opEvents following).length))) s = .next {
      lines := Latches.blank.after (opEvents following)
      seq := .idle
      trace := s.trace ++ (opEvents op).take n ++ opEvents following
      reports := s.reports ++ [.done]
      host := [] }

/-- What the LCD receives of an operation cut short after `n` micro-steps (70_reset_and_hazards.md R189), under the same
assumptions (20_memory.md R63 to R65; log entry 19): the words whose enable pulse was completed and no others; and the
partial bit sequence does not leak into the next operation, whose words come whole. -/
def Obligations.ACutOperationDeliversItsCompletedPulses : Prop :=
  ∀ (L : Latches) (shifted : List (Option Level)) (op : Instr) (n : Nat), op.isPublic = true → requestError op = none →
    lcdWordsSeen L shifted ((opEvents op).take n) =
      ((encode op).lcdWords.take (((opEvents op).take n).count (.set .lcdClock false))).map some ∧
    ∀ following : Instr, following.isPublic = true → requestError following = none →
      lcdWordsSeen L shifted ((opEvents op).take n ++ opEvents following) =
        ((encode op).lcdWords.take (((opEvents op).take n).count (.set .lcdClock false))).map some ++
          (encode following).lcdWords.map some

/-- `RESET_LEVELS` is an argument of the machine (00_scope.md R5, OPEN; decision D8; log entry 1). At every value of it the
reset state is idle with the lines at these levels and meets the invariant, a reset at any time leaves them there, and no
other step depends on it; the machine's own reset state and step are those of R31, with every line unspecified. -/
def Obligations.ResetLevelsAreAnArgument : Prop :=
  (∀ levels : Latches,
    ((State.resetUnder levels).lines = levels ∧ (State.resetUnder levels).seq = .idle ∧
      BlockInv (State.resetUnder levels)) ∧
    (∀ (s : State) (rest : List HostAction), s.host = .reset :: rest →
      hostStep levels s = .next { s with lines := levels, seq := .idle, host := rest }) ∧
    (∀ s : State, (∀ rest, s.host ≠ .reset :: rest) → hostStep levels s = step s)) ∧
  State.reset = State.resetUnder ⟨none, none, none, none, none⟩ ∧
  (∀ s : State, step s = hostStep ⟨none, none, none, none, none⟩ s)

/-- A reset in mid-operation on a platform that knows its `RESET_LEVELS` (70_reset_and_hazards.md R180, R181, R189;
decision D8): nothing is performed or reported, and the next operation performs its whole trace, its lines starting from
these levels. The host's actions and the one step of the acceptance are the model's (log entries 3 and 7). -/
def Obligations.RecoveryFromAResetAtKnownLevels : Prop :=
  ∀ (levels : Latches) (s : State) (following : Instr), following.isPublic = true → requestError following = none →
    s.host = [.reset, .requestWhenIdle following] →
    ∃ t, hostStep levels s = .next t ∧ t.trace = s.trace ∧ t.reports = s.reports ∧
      stepN (1 + (opEvents following).length) t = .next {
        lines := levels.after (opEvents following)
        seq := .idle
        trace := s.trace ++ opEvents following
        reports := s.reports ++ [.done]
        host := [] }
end

