-- ==== Sys2Proof/Laws/State.lean ====
section
/-! SUPPORT. The fields of the state after each update, and reading a latch after writing one. -/

namespace Sys2Proof.Machine

@[simp] theorem State.perform_lines (s : State) (e : Event) : (s.perform e).lines = s.lines.apply e := rfl
@[simp] theorem State.perform_seq (s : State) (e : Event) : (s.perform e).seq = s.seq := rfl
@[simp] theorem State.perform_trace (s : State) (e : Event) : (s.perform e).trace = s.trace ++ [e] := rfl
@[simp] theorem State.perform_reports (s : State) (e : Event) : (s.perform e).reports = s.reports := rfl
@[simp] theorem State.perform_host (s : State) (e : Event) : (s.perform e).host = s.host := rfl

@[simp] theorem State.report_lines (s : State) (r : Report) : (s.report r).lines = s.lines := rfl
@[simp] theorem State.report_seq (s : State) (r : Report) : (s.report r).seq = s.seq := rfl
@[simp] theorem State.report_trace (s : State) (r : Report) : (s.report r).trace = s.trace := rfl
@[simp] theorem State.report_reports (s : State) (r : Report) : (s.report r).reports = s.reports ++ [r] := rfl
@[simp] theorem State.report_host (s : State) (r : Report) : (s.report r).host = s.host := rfl

@[simp] theorem State.resetBlock_lines (s : State) (L : Latches) : (s.resetBlock L).lines = L := rfl
@[simp] theorem State.resetBlock_seq (s : State) (L : Latches) : (s.resetBlock L).seq = .idle := rfl
@[simp] theorem State.resetBlock_trace (s : State) (L : Latches) : (s.resetBlock L).trace = s.trace := rfl
@[simp] theorem State.resetBlock_reports (s : State) (L : Latches) : (s.resetBlock L).reports = s.reports := rfl
@[simp] theorem State.resetBlock_host (s : State) (L : Latches) : (s.resetBlock L).host = s.host := rfl

@[simp] theorem State.resetUnder_lines (L : Latches) : (State.resetUnder L).lines = L := rfl
@[simp] theorem State.resetUnder_seq (L : Latches) : (State.resetUnder L).seq = .idle := rfl
@[simp] theorem State.resetUnder_trace (L : Latches) : (State.resetUnder L).trace = [] := rfl
@[simp] theorem State.resetUnder_reports (L : Latches) : (State.resetUnder L).reports = [] := rfl
@[simp] theorem State.resetUnder_host (L : Latches) : (State.resetUnder L).host = [] := rfl

/-- A written latch holds what was written. -/
@[simp] theorem Latches.get_set_same (L : Latches) (line : Line) (v : Level) :
    (L.set line v).get line = some v := by cases line <;> rfl

/-- A write leaves every other latch alone (40_register_shifter.md R100). -/
theorem Latches.get_set_of_ne (L : Latches) {line other : Line} (v : Level) (h : other ≠ line) :
    (L.set line v).get other = L.get other := by
  cases line <;> cases other <;> first | rfl | exact absurd rfl h

@[simp] theorem Latches.apply_set (L : Latches) (line : Line) (v : Level) :
    L.apply (.set line v) = L.set line v := rfl
@[simp] theorem Latches.apply_delay (L : Latches) : L.apply .delay = L := rfl

@[simp] theorem Latches.after_nil (L : Latches) : L.after [] = L := rfl
@[simp] theorem Latches.after_cons (L : Latches) (e : Event) (es : List Event) :
    L.after (e :: es) = (L.apply e).after es := rfl
theorem Latches.after_append (L : Latches) (es fs : List Event) :
    L.after (es ++ fs) = (L.after es).after fs := by simp [Latches.after]

/-- Two latch banks with the same five levels are the same. -/
theorem Latches.ext_get {L M : Latches} (h : ∀ line, L.get line = M.get line) : L = M := by
  have h0 := h .registerData
  have h1 := h .registerClock
  have h2 := h .registerClear
  have h3 := h .lcdClock
  have h4 := h .lcdModeSelect
  cases L; cases M; simp_all [Latches.get]

end Sys2Proof.Machine
end

