-- ==== Sys2Proof/Laws/Ops.lean ====
section
/-! SUPPORT. What each shared operation can do, said once: the lengths of the procedures, the micro-step, accepting and
raising, the sequencer's step and the host's. -/

namespace Sys2Proof.Machine

/-! The procedures. -/

/-- The micro-steps of the register-clear cycle written out (R104). -/
theorem clearRegisterSteps_length : clearRegisterSteps.length = 33 := rfl

/-- Every `shiftByte` has 64 micro-steps (R105). -/
@[simp] theorem shiftByteSteps_length (b : Byte) : (shiftByteSteps b).length = 64 := rfl

/-- The 64 micro-steps of `shiftByte(b)` written out: the register-clear cycle, then the data, the extra pulse and the
enable pulse (R105). -/
theorem shiftByteSteps_eq (b : Byte) :
    shiftByteSteps b = clearRegisterSteps ++
      [.set .registerClock false,
        .set .registerData (b.getLsbD 0), .set .registerClock true, .set .registerClock false,
        .set .registerData (b.getLsbD 1), .set .registerClock true, .set .registerClock false,
        .set .registerData (b.getLsbD 2), .set .registerClock true, .set .registerClock false,
        .set .registerData (b.getLsbD 3), .set .registerClock true, .set .registerClock false,
        .set .registerData (b.getLsbD 4), .set .registerClock true, .set .registerClock false,
        .set .registerData (b.getLsbD 5), .set .registerClock true, .set .registerClock false,
        .set .registerData (b.getLsbD 6), .set .registerClock true, .set .registerClock false,
        .set .registerData (b.getLsbD 7), .set .registerClock true, .set .registerClock false,
        .set .registerClock true, .set .registerClock false, .delay,
        .set .lcdClock true, .set .lcdClock false, .delay] := rfl

@[simp] theorem setModeSteps_length (m : Bool) : (setModeSteps m).length = 1 := rfl

@[simp] theorem Item.steps_mode (m : Level) : (Item.mode m).steps = [.set .lcdModeSelect m] := rfl
@[simp] theorem Item.steps_byte (b : Byte) : (Item.byte b).steps = shiftByteSteps b := rfl

/-- An item has at least one micro-step. -/
theorem Item.steps_length_pos (item : Item) : 0 < item.steps.length := by
  cases item <;> simp

@[simp] theorem itemEvents_nil : itemEvents [] = [] := rfl
@[simp] theorem itemEvents_cons (item : Item) (its : List Item) :
    itemEvents (item :: its) = item.steps ++ itemEvents its := by simp [itemEvents]
@[simp] theorem itemEvents_append (xs ys : List Item) :
    itemEvents (xs ++ ys) = itemEvents xs ++ itemEvents ys := by simp [itemEvents]

/-! The sequencer. -/

/-- A micro-step of a running operation: the one event it performs and the state R24 gives. -/
theorem microStep_run {s : State} {req : Instr} {its : List Item} {i j len : Nat} {procedure : List Event}
    {e : Event} (hs : s.seq = .run req its i j) (he : procedure[j]? = some e) :
    microStep procedure len s = .next (afterMicroStep s req its i j len e) := by
  simp only [microStep, hs, he]
  congr 1
  simp only [State.advance, State.perform_seq, hs, afterMicroStep]
  split
  · simp [State.perform, *]
  · split <;> simp_all [State.perform, State.report]

/-- A micro-step outside its procedure has no meaning. -/
theorem microStep_out {s : State} {req : Instr} {its : List Item} {i j len : Nat} {procedure : List Event}
    (hs : s.seq = .run req its i j) (he : procedure[j]? = none) :
    microStep procedure len s = .fault .positionOutOfRange := by
  simp only [microStep, hs, he]

/-- With no operation running an internal procedure is refused (R145). -/
theorem microStep_idle {s : State} {len : Nat} {procedure : List Event} (hs : s.seq = .idle) :
    microStep procedure len s = .refused .notRequestable := by
  simp only [microStep, hs]

/-- If a micro-step answers a next state, an operation was running and it is the state R24 gives. -/
theorem microStep_next {s t : State} {len : Nat} {procedure : List Event}
    (h : microStep procedure len s = .next t) :
    ∃ req its i j e, s.seq = .run req its i j ∧ procedure[j]? = some e ∧
      t = afterMicroStep s req its i j len e := by
  cases hs : s.seq with
  | idle => rw [microStep_idle hs] at h; cases h
  | run req its i j =>
    cases he : procedure[j]? with
    | none => rw [microStep_out hs he] at h; cases h
    | some e =>
      rw [microStep_run hs he] at h
      injection h with h
      exact ⟨req, its, i, j, e, rfl, he, h.symm⟩

/-! Accepting and raising. -/

theorem accept_idle {s : State} (op : Instr) (hs : s.seq = .idle) :
    accept op s = .next { s with seq := .run op (items op) 0 0 } := by simp only [accept, hs]

theorem accept_busy {s : State} {req : Instr} {its : List Item} {i j : Nat} (op : Instr)
    (hs : s.seq = .run req its i j) : accept op s = .refused .requestWhileBusy := by simp only [accept, hs]

theorem raise_idle {s : State} (r : Report) (hs : s.seq = .idle) :
    raise r s = .next { s with reports := s.reports ++ [r] } := by simp only [raise, hs, State.report]

theorem raise_busy {s : State} {req : Instr} {its : List Item} {i j : Nat} (r : Report)
    (hs : s.seq = .run req its i j) : raise r s = .refused .requestWhileBusy := by simp only [raise, hs]

/-- Every public operation raises its error or is accepted: the validation of R130 in one equation. -/
theorem exec_public {op : Instr} (s : State) (h : op.isPublic = true) :
    exec op s = match requestError op with
      | some r => raise r s
      | none => accept op s := by
  cases op with
  | setCursor x y =>
    simp only [exec, execSetCursor, requestError]
    cases cursorInRange x y <;> rfl
  | write string =>
    cases hl : lengthError string <;> simp only [exec, execWrite, requestError, hl]
  | shiftByte b => cases h
  | clearRegister => cases h
  | setMode m => cases h
  | construct => rfl
  | home => rfl
  | clear => rfl
  | setEntryMode d v => rfl
  | setCursorMode a k => rfl
  | displayOff => rfl
  | shiftCursorLeft n => rfl
  | shiftCursorRight n => rfl
  | shiftDisplayLeft n => rfl
  | shiftDisplayRight n => rfl

/-! The sequencer's step and the host's. -/

/-- The sequencer performs the micro-step its position names. -/
theorem blockStep_run {s : State} {req : Instr} {its : List Item} {i j : Nat} {item : Item} {e : Event}
    (hs : s.seq = .run req its i j) (hi : its[i]? = some item) (he : item.steps[j]? = some e) :
    blockStep s = .next (afterMicroStep s req its i j item.steps.length e) := by
  cases item with
  | mode m => simp only [blockStep, hs, hi, exec, execSetMode]; exact microStep_run hs he
  | byte b => simp only [blockStep, hs, hi, exec, execShiftByte]; exact microStep_run hs he

theorem blockStep_idle {s : State} (hs : s.seq = .idle) : blockStep s = .next s := by
  simp only [blockStep, hs]

/-- If the sequencer's step answers a next state, the block was idle and nothing changed, or it performed the
micro-step its position names. -/
theorem blockStep_next {s t : State} (h : blockStep s = .next t) :
    (s.seq = .idle ∧ t = s) ∨
    ∃ req its i j item e, s.seq = .run req its i j ∧ its[i]? = some item ∧ item.steps[j]? = some e ∧
      t = afterMicroStep s req its i j item.steps.length e := by
  cases hs : s.seq with
  | idle =>
    rw [blockStep_idle hs] at h
    injection h with h
    exact .inl ⟨rfl, h.symm⟩
  | run req its i j =>
    cases hi : its[i]? with
    | none => simp only [blockStep, hs, hi] at h; cases h
    | some item =>
      cases he : item.steps[j]? with
      | none =>
        have : blockStep s = .fault .positionOutOfRange := by
          cases item <;> simp only [blockStep, hs, hi, exec, execSetMode, execShiftByte] <;>
            exact microStep_out hs he
        rw [this] at h; cases h
      | some e =>
        rw [blockStep_run hs hi he] at h
        injection h with h
        exact .inr ⟨req, its, i, j, item, e, rfl, hi, he, h.symm⟩

/-- A reset leaves the latches at `RESET_LEVELS` and the block idle, whatever it was doing (70_reset_and_hazards.md R180). -/
theorem hostStep_reset {s : State} {rest : List HostAction} (levels : Latches) (hh : s.host = .reset :: rest) :
    hostStep levels s = .next { s with lines := levels, seq := .idle, host := rest } := by
  simp only [hostStep, hh, State.resetBlock]

/-- `RESET_LEVELS` is read by a reset alone: every other step is the machine's step, whatever the levels. -/
theorem hostStep_eq_step {s : State} (levels : Latches) (hr : ∀ rest, s.host ≠ .reset :: rest) :
    hostStep levels s = step s := by
  cases hh : s.host with
  | nil => simp only [step, hostStep, hh]
  | cons a rest =>
    cases a with
    | reset => exact absurd hh (hr rest)
    | pass => simp only [step, hostStep, hh]
    | request op => simp only [step, hostStep, hh]
    | requestWhenIdle op => simp only [step, hostStep, hh]

/-- With a host that lets it, the machine's step is the sequencer's. -/
theorem step_quiet {s : State} (hh : s.host = []) : step s = blockStep s := by
  simp only [step, hostStep, hh]

/-- While the block is busy a host that waits for it to be idle does not interfere. -/
theorem step_waiting {s : State} {req : Instr} {its : List Item} {i j : Nat} {op : Instr} {rest : List HostAction}
    (hs : s.seq = .run req its i j) (hh : s.host = .requestWhenIdle op :: rest) : step s = blockStep s := by
  simp only [step, hostStep, hh, hs]

/-- Everything a step can do when it answers a next state: a reset, an accepted or rejected request of an idle block, or
the sequencer's own step. -/
theorem step_next {s t : State} (h : step s = .next t) :
    (∃ rest, s.host = .reset :: rest ∧ t = { s with lines := Latches.reset, seq := .idle, host := rest }) ∨
    (∃ op rest, (s.host = .request op :: rest ∨ s.host = .requestWhenIdle op :: rest) ∧ s.seq = .idle ∧
      op.isPublic = true ∧ exec op { s with host := rest } = .next t) ∨
    (∃ host, blockStep { s with host := host } = .next t ∧
      (host = s.host ∨ s.host = .pass :: host)) := by
  have internal : ∀ (op : Instr) (s' : State), s'.seq = .idle → exec op s' = .next t → op.isPublic = true := by
    intro op s' hs' ht
    cases op <;> first
      | rfl
      | (simp only [exec, execShiftByte, execClearRegister, execSetMode, microStep_idle hs'] at ht; cases ht)
  simp only [step, hostStep] at h
  split at h
  · exact .inr (.inr ⟨s.host, h, .inl rfl⟩)
  · next rest hh => exact .inr (.inr ⟨rest, h, .inr hh⟩)
  · next rest hh =>
    injection h with h
    exact .inl ⟨rest, hh, h.symm⟩
  · next op rest hh =>
    split at h
    · next hs => exact .inr (.inl ⟨op, rest, .inl hh, hs, internal op { s with host := rest } hs h, h⟩)
    · cases h
  · next op rest hh =>
    split at h
    · next hs => exact .inr (.inl ⟨op, rest, .inr hh, hs, internal op { s with host := rest } hs h, h⟩)
    · exact .inr (.inr ⟨s.host, h, .inl rfl⟩)

/-! The observer's reading of a trace. -/

/-- Without a completed enable pulse the LCD receives nothing (20_memory.md R65; 70_reset_and_hazards.md R189). -/
theorem lcdWordsSeen_of_no_fall (es : List Event) :
    ∀ (L : Latches) (shifted : List (Option Level)), Event.set .lcdClock false ∉ es → lcdWordsSeen L shifted es = [] := by
  induction es with
  | nil => intro L shifted _; rfl
  | cons e es ih =>
    intro L shifted h
    have h' : Event.set .lcdClock false ∉ es := fun hm => h (List.mem_cons_of_mem _ hm)
    cases e with
    | delay => exact ih _ _ h'
    | set line v => cases line <;> cases v <;> first | exact ih _ _ h' | exact absurd List.mem_cons_self h

/-- What the LCD receives of a trace does not depend on what follows it. -/
theorem lcdWordsSeen_append (es : List Event) :
    ∀ (L : Latches) (shifted : List (Option Level)), ∃ L' shifted', ∀ fs,
      lcdWordsSeen L shifted (es ++ fs) = lcdWordsSeen L shifted es ++ lcdWordsSeen L' shifted' fs := by
  induction es with
  | nil => intro L shifted; exact ⟨L, shifted, fun _ => rfl⟩
  | cons e es ih =>
    intro L shifted
    by_cases he : e = .set .lcdClock false
    · subst he
      obtain ⟨L', shifted', h⟩ := ih (L.set .lcdClock false) shifted
      refine ⟨L', shifted', fun fs => ?_⟩
      by_cases hc : L.lcdClock = some true
      · simp only [List.cons_append, lcdWordsSeen, if_pos hc, h]
      · simp only [List.cons_append, lcdWordsSeen, if_neg hc, h]
    · cases e with
      | delay => exact ih L shifted
      | set line v => cases line <;> cases v <;> first | exact ih _ _ | exact absurd rfl he

/-! Runs. -/

@[simp] theorem stepN_zero (s : State) : stepN 0 s = .next s := rfl

theorem stepN_succ {s t : State} (n : Nat) (h : step s = .next t) : stepN (n + 1) s = stepN n t := by
  simp only [stepN, h]

/-- A run of `m` steps that answers a next state, followed by `n` more. -/
theorem stepN_add {s t : State} (m n : Nat) (h : stepN m s = .next t) : stepN (m + n) s = stepN n t := by
  induction m generalizing s with
  | zero =>
    simp only [stepN_zero] at h
    injection h with h
    rw [Nat.zero_add, h]
  | succ m ih =>
    rw [Nat.succ_add]
    simp only [stepN] at h
    split at h
    · next u hu => exact (stepN_succ _ hu).trans (ih h)
    · cases h
    · cases h

end Sys2Proof.Machine
end

