-- ==== Sys2Proof/Laws/PerInstr.lean ====
section
/-! SUPPORT. One law for every instruction, a lemma per constructor: what the encoder writes lies in the instruction's
own row of the opcode table (30_encoding.md R72 and R71; spec/opcode_table.json `match` and `mask`). -/

namespace Sys2Proof.Laws.RowPattern

/-- The `mask` and `match` of an instruction's row. The internal procedures' rows have formats of their own, so theirs
is the pattern that matches every LCD word. -/
def row : Instr → LcdWord × LcdWord
  | .construct => (0x1FF#9, 0x038#9)
  | .home => (0x1FF#9, 0x002#9)
  | .clear => (0x1FF#9, 0x001#9)
  | .setEntryMode _ _ => (0x1FC#9, 0x004#9)
  | .setCursorMode _ _ => (0x1FC#9, 0x00C#9)
  | .displayOff => (0x1FF#9, 0x008#9)
  | .setCursor _ _ => (0x1B0#9, 0x080#9)
  | .shiftCursorLeft _ => (0x1FF#9, 0x010#9)
  | .shiftCursorRight _ => (0x1FF#9, 0x014#9)
  | .shiftDisplayLeft _ => (0x1FF#9, 0x018#9)
  | .shiftDisplayRight _ => (0x1FF#9, 0x01C#9)
  | .write _ => (0x100#9, 0x100#9)
  | .shiftByte _ => (0x000#9, 0x000#9)
  | .clearRegister => (0x000#9, 0x000#9)
  | .setMode _ => (0x000#9, 0x000#9)

/-- The bits the row fixes, in whichever format the row has: the first LCD word of an operation matches the row (the
later words of `construct` are the setters' own, R72), a serial frame begins with the ten zeros of the clear cycle and
repeats its last data level (R71), and a clear cycle alone is ten zeros (R104). -/
def inRow (op : Instr) : Encoded → Prop
  | .words ws => ∀ w, ws.head? = some w → w &&& (row op).1 = (row op).2
  | .frame f => f.extractLsb' 9 10 = 0#10 ∧ f.getLsbD 0 = f.getLsbD 1
  | .clearFrame f => f = 0#10
  | .modeBit m => m = BitVec.ofBool (m.getLsbD 0)

/-- A well-formed instruction is encoded in its own row. -/
def Statement (op : Instr) : Prop := op.wellFormed = true → inRow op (encode op)

/-- The words of a shift all match where one does, however often it is repeated. -/
theorem inRow_replicate {op : Instr} {w : LcdWord} (n : Nat) (h : w &&& (row op).1 = (row op).2) :
    inRow op (.words (List.replicate n w)) := by
  intro v hv
  have hm : v ∈ List.replicate n w := List.mem_of_head? hv
  rwa [(List.mem_replicate.1 hm).2]

theorem construct : Statement .construct := fun _ w hw => by
  rw [← Option.some.inj hw]; decide

theorem home : Statement .home := fun _ => inRow_replicate 1 (by decide)

theorem clear : Statement .clear := fun _ => inRow_replicate 1 (by decide)

theorem setEntryMode (direction display : Bool) : Statement (.setEntryMode direction display) := fun _ =>
  inRow_replicate 1 (by cases direction <;> cases display <;> decide)

theorem setCursorMode (active blink : Bool) : Statement (.setCursorMode active blink) := fun _ =>
  inRow_replicate 1 (by cases active <;> cases blink <;> decide)

theorem displayOff : Statement .displayOff := fun _ => inRow_replicate 1 (by decide)

theorem setCursor (x y : Int) : Statement (.setCursor x y) := fun _ =>
  inRow_replicate 1 (by
    have h : ∀ (v : Bool) (c : BitVec 4),
        (0b01#2 ++ BitVec.ofBool v ++ 0b00#2 ++ c : LcdWord) &&& 0x1B0#9 = 0x080#9 := by decide
    exact h _ _)

theorem shiftCursorLeft (step : Int) : Statement (.shiftCursorLeft step) := fun _ =>
  inRow_replicate (op := .shiftCursorLeft step) _ (show 0x010#9 &&& 0x1FF#9 = 0x010#9 by decide)

theorem shiftCursorRight (step : Int) : Statement (.shiftCursorRight step) := fun _ =>
  inRow_replicate (op := .shiftCursorRight step) _ (show 0x014#9 &&& 0x1FF#9 = 0x014#9 by decide)

theorem shiftDisplayLeft (step : Int) : Statement (.shiftDisplayLeft step) := fun _ =>
  inRow_replicate (op := .shiftDisplayLeft step) _ (show 0x018#9 &&& 0x1FF#9 = 0x018#9 by decide)

theorem shiftDisplayRight (step : Int) : Statement (.shiftDisplayRight step) := fun _ =>
  inRow_replicate (op := .shiftDisplayRight step) _ (show 0x01C#9 &&& 0x1FF#9 = 0x01C#9 by decide)

theorem write (string : List Byte) : Statement (.write string) := fun _ w hw => by
  have hm : w ∈ string.map characterWord := List.mem_of_head? hw
  obtain ⟨c, _, rfl⟩ := List.mem_map.1 hm
  have h : ∀ c : Byte, characterWord c &&& 0x100#9 = 0x100#9 := by decide
  exact h c

theorem shiftByte (b : Byte) : Statement (.shiftByte b) := fun _ => by
  have h : ∀ b : Byte, (serialFrame b).extractLsb' 9 10 = 0#10 ∧
      (serialFrame b).getLsbD 0 = (serialFrame b).getLsbD 1 := by decide
  exact h b

theorem clearRegister : Statement .clearRegister := fun _ => rfl

theorem setMode (isCharacterData : Bool) : Statement (.setMode isCharacterData) := fun _ => by
  cases isCharacterData <;> rfl

end Sys2Proof.Laws.RowPattern
end

