-- ==== Sys2Proof/Tests/Slice0.lean ====
section
/-! SUPPORT. The model's own tests, expected results taken from the tables of spec/ (95_test_vectors.md V10 to V97, the
patterns of 30_encoding.md R72), and for every statement with hypotheses a witness that meets them. -/

open Sys2Proof Sys2Proof.Machine

namespace Sys2Proof.Tests

/-! Ill-formed operands, one for each check of R80, and the values just inside. -/

theorem test_wellFormed_x_below : (Instr.setCursor (-1) 0).wellFormed = false := by decide
theorem test_wellFormed_x_above : (Instr.setCursor 16 0).wellFormed = false := by decide
theorem test_wellFormed_y_below : (Instr.setCursor 0 (-1)).wellFormed = false := by decide
theorem test_wellFormed_y_above : (Instr.setCursor 0 2).wellFormed = false := by decide
theorem test_wellFormed_empty : (Instr.write []).wellFormed = false := by decide
theorem test_wellFormed_too_long : (Instr.write (List.replicate 17 0x41#8)).wellFormed = false := by decide
theorem test_wellFormed_bounds :
    (Instr.setCursor 0 0).wellFormed = true ∧ (Instr.setCursor 15 1).wellFormed = true ∧
    (Instr.write [0x41#8]).wellFormed = true ∧ (Instr.write (List.replicate 16 0x41#8)).wellFormed = true := by decide

/-! Decoding: a word of each row, its bits written from the row's pattern in R72, R71, R104 or R120. -/

theorem test_decode_construct : decode (.words [0b000111000#9, 0b000001100#9, 0b000000110#9]) = .ok .construct := by
  decide
theorem test_decode_home : decode (.words [0b000000010#9]) = .ok .home := by decide
theorem test_decode_clear : decode (.words [0b000000001#9]) = .ok .clear := by decide
theorem test_decode_setEntryMode : decode (.words [0b000000101#9]) = .ok (.setEntryMode false true) := by decide
theorem test_decode_setCursorMode : decode (.words [0b000001100#9]) = .ok (.setCursorMode false false) := by decide
theorem test_decode_displayOff : decode (.words [0b000001000#9]) = .ok .displayOff := by decide
theorem test_decode_setCursor : decode (.words [0b011001111#9]) = .ok (.setCursor 15 1) := by decide
theorem test_decode_shiftCursorLeft :
    decode (.words [0b000010000#9, 0b000010000#9, 0b000010000#9]) = .ok (.shiftCursorLeft 3) := by decide
theorem test_decode_shiftCursorRight : decode (.words [0b000010100#9]) = .ok (.shiftCursorRight 1) := by decide
theorem test_decode_shiftDisplayLeft :
    decode (.words [0b000011000#9, 0b000011000#9]) = .ok (.shiftDisplayLeft 2) := by decide
theorem test_decode_shiftDisplayRight : decode (.words [0b000011100#9]) = .ok (.shiftDisplayRight 1) := by decide
theorem test_decode_write : decode (.words [0b101001000#9, 0b101101001#9]) = .ok (.write [0x48#8, 0x69#8]) := by
  decide
/-- 0x38 = 0b00111000 goes out as 0, 0, 0, 1, 1, 1, 0, 0 (R105's example), and its bit 7 again. -/
theorem test_decode_shiftByte : decode (.frame 0b0000000000000111000#19) = .ok (.shiftByte 0x38#8) := by decide
theorem test_decode_clearRegister : decode (.clearFrame 0b0000000000#10) = .ok .clearRegister := by decide
theorem test_decode_setMode : decode (.modeBit 0b0#1) = .ok (.setMode false) := by decide

/-- Bytes R78 names as never emitted, at both ends of its ranges. -/
theorem test_decode_never_emitted :
    decode (.words [0b000001101#9]) = .error (.neverEmitted 0x0D#8) ∧
    decode (.words [0b001000000#9]) = .error (.neverEmitted 0x40#8) ∧
    decode (.words [0b010010000#9]) = .error (.neverEmitted 0x90#8) ∧
    decode (.words [0b000000000#9]) = .error (.neverEmitted 0x00#8) ∧
    decode (.words [0b011010000#9]) = .error (.neverEmitted 0xD0#8) := by decide

/-- In character mode the function-set byte is the character "8" (95_test_vectors.md P4). -/
theorem test_decode_character_8 : decode (.words [0b100111000#9]) = .ok (.write [0x38#8]) := by decide

/-! The operations, from a state with levels on every line; V30 to V91. -/

/-- An idle block with the levels (0, 0, 1, 0, 0) of 95_test_vectors.md P2, one event and one report behind it. -/
def ready : State where
  lines := ⟨some false, some false, some true, some false, some false⟩
  seq := .idle
  trace := [.delay]
  reports := [.done]
  host := []

/-- The next state of an outcome, if it is one. -/
def answer : Outcome → Option State
  | .next t => some t
  | .fault _ => none
  | .refused _ => none

/-- The reason of a refusal, if the outcome is one. -/
def refusal : Outcome → Option Refusal
  | .next _ => none
  | .fault _ => none
  | .refused r => some r

/-- The reason of a fault, if the outcome is one. -/
def fault : Outcome → Option Fault
  | .next _ => none
  | .fault f => some f
  | .refused _ => none

/-- The request is accepted with exactly these items, and nothing else changes. -/
def accepted (op : Instr) (its : List Item) : Prop :=
  answer (exec op ready) = some { ready with seq := .run op its 0 0 }

/-- The request is answered with this error, and nothing else changes. -/
def rejected (op : Instr) (r : Report) : Prop :=
  answer (exec op ready) = some { ready with reports := [.done, r] }

theorem test_construct : accepted .construct
    [.mode false, .byte 0x38#8, .mode false, .byte 0x0C#8, .mode false, .byte 0x06#8] := by unfold accepted; decide
theorem test_home : accepted .home [.mode false, .byte 0x02#8] := by unfold accepted; decide
theorem test_clear : accepted .clear [.mode false, .byte 0x01#8] := by unfold accepted; decide
theorem test_setEntryMode_default : accepted .setEntryModeDefault [.mode false, .byte 0x06#8] := by
  unfold accepted; decide
theorem test_setEntryMode_display : accepted (.setEntryMode false true) [.mode false, .byte 0x05#8] := by
  unfold accepted; decide
theorem test_setCursorMode_active : accepted (.setCursorMode true false) [.mode false, .byte 0x0E#8] := by
  unfold accepted; decide
theorem test_setCursorMode_blink : accepted (.setCursorMode false true) [.mode false, .byte 0x0F#8] := by
  unfold accepted; decide
theorem test_displayOff : accepted .displayOff [.mode false, .byte 0x08#8] := by unfold accepted; decide
theorem test_setCursor_last : accepted (.setCursor 15 1) [.mode false, .byte 0xCF#8] := by unfold accepted; decide
theorem test_setCursor_both_bad : rejected (.setCursor 16 2) (.rangeError 16 2) := by unfold rejected; decide
theorem test_shiftCursorLeft : accepted (.shiftCursorLeft 3)
    [.mode false, .byte 0x10#8, .byte 0x10#8, .byte 0x10#8] := by unfold accepted; decide
theorem test_shiftCursorRight_negative : accepted (.shiftCursorRight (-1)) [.mode false] := by unfold accepted; decide
theorem test_shiftDisplayLeft_zero : accepted (.shiftDisplayLeft 0) [.mode false] := by unfold accepted; decide
theorem test_shiftDisplayRight : accepted (.shiftDisplayRight 2) [.mode false, .byte 0x1C#8, .byte 0x1C#8] := by
  unfold accepted; decide
theorem test_write : accepted (.write [0x48#8, 0x69#8]) [.mode true, .byte 0x48#8, .byte 0x69#8] := by
  unfold accepted; decide
theorem test_write_overflow : rejected (.write (List.replicate 17 0x41#8)) (.lengthErrorOverflow 1) := by
  unfold rejected; decide

/-! The procedures, at positions of the operation `write([0xA5])` that V15 traces from reset. -/

/-- `write([0xA5])` from reset at `RUN(1, j)`: the latches, trace and position of V15's row `j + 1`. -/
def atByte (j : Nat) : State where
  lines := Latches.blank.after (performed (items (.write [0xA5#8])) 1 j)
  seq := .run (.write [0xA5#8]) (items (.write [0xA5#8])) 1 j
  trace := performed (items (.write [0xA5#8])) 1 j
  reports := []
  host := []

/-- The same operation before its first micro-step. -/
def atMode : State where
  lines := Latches.blank
  seq := .run (.write [0xA5#8]) (items (.write [0xA5#8])) 0 0
  trace := []
  reports := []
  host := []

/-- The levels of the next state of an outcome, if it is one. -/
def levels (o : Outcome) : Option Latches := (answer o).map State.lines

/-- V15 row 36: the first data bit of 0xA5 is 1, and the enable line is still unspecified. -/
theorem test_shiftByte_first_bit : levels (exec (.shiftByte 0xA5#8) (atByte 34)) =
    some ⟨some true, some false, some true, none, some true⟩ := by decide
/-- V15 row 65: the last micro-step ends the operation, which reports `Done`. -/
theorem test_shiftByte_ends : answer (exec (.shiftByte 0xA5#8) (atByte 63)) =
    some { atByte 63 with
      lines := ⟨some true, some false, some true, some false, some true⟩
      seq := .idle
      trace := (atByte 63).trace ++ [.delay]
      reports := [.done] } := by decide
/-- V15 row 33: the clear line goes back to 1. -/
theorem test_clearRegister_reassert : levels (exec .clearRegister (atByte 31)) =
    some ⟨some false, some false, some true, none, some true⟩ := by decide
/-- V15 row 5: the second zero bit writes the data line again. -/
theorem test_clearRegister_zero_bit : answer (exec .clearRegister (atByte 4)) =
    some { atByte 4 with
      seq := .run (.write [0xA5#8]) [.mode true, .byte 0xA5#8] 1 5
      trace := (atByte 4).trace ++ [.set .registerData false] } := by decide
/-- V20 and V15 row 1: one event, the mode line alone, and on to the byte. -/
theorem test_setMode : answer (exec (.setMode true) atMode) =
    some { atMode with
      lines := ⟨none, none, none, none, some true⟩
      seq := .run (.write [0xA5#8]) [.mode true, .byte 0xA5#8] 1 0
      trace := [.set .lcdModeSelect true] } := by decide
/-- V22: a write of the level already held is still one event. -/
theorem test_setMode_same_level :
    answer (exec (.setMode false) { ready with seq := .run .home [.mode false, .byte 0x02#8] 0 0 }) =
      some { ready with
        seq := .run .home [.mode false, .byte 0x02#8] 1 0
        trace := [.delay, .set .lcdModeSelect false] } := by decide

/-! The host. -/

/-- V95: a request while busy has no step. -/
theorem test_request_while_busy : refusal (step { atByte 40 with host := [.request .clear] }) = some .requestWhileBusy := by
  decide
/-- V97, R145: an internal procedure cannot be requested. -/
theorem test_internal_not_requestable : refusal (step { ready with host := [.request (.shiftByte 0x40#8)] }) =
    some .notRequestable := by decide
/-- P5: reset in mid-operation: idle, no event, no report, every line unspecified. -/
theorem test_reset_in_operation : answer (step { atByte 41 with host := [.reset] }) =
    some { atByte 41 with lines := ⟨none, none, none, none, none⟩, seq := .idle } := by decide
/-- P5's note: a platform whose `RESET_LEVELS` leave the enable line at 1 finds it at 1 after a reset. -/
theorem test_reset_at_known_levels :
    levels (hostStep ⟨none, none, none, some true, none⟩ { atByte 41 with host := [.reset] }) =
      some ⟨none, none, none, some true, none⟩ := by decide
/-- P5 and R189: `home` cut short after 42 events, then `clear`: the one LCD word of the program is `000000001`. -/
theorem test_cut_before_the_enable :
    lcdWordsSeen ready.lines [] ((opEvents .home).take 42 ++ opEvents .clear) = [some 0b000000001#9] := by decide
/-- R189: `home` cut short between micro-steps 61 and 62 of its byte delivers no word, after 62 its one. -/
theorem test_cut_in_the_enable :
    lcdWordsSeen ready.lines [] ((opEvents .home).take 63) = [] ∧
    lcdWordsSeen ready.lines [] ((opEvents .home).take 64) = [some 0b000000010#9] := by decide
/-- A placed table word is accepted by the next step from reset. -/
theorem test_fetch_home : answer (step (State.reset.withFetchWord 16 0x002)) =
    some { State.reset with seq := .run .home [.mode false, .byte 0x02#8] 0 0 } := by decide

/-! Witnesses: states and operands that meet the hypotheses of each statement together. -/

/-- Every `atByte j` with `j` in range meets the invariant, so it can stand for the states of V15. -/
theorem atByte_inv {j : Nat} (h : j < 64) : BlockInv (atByte j) :=
  ⟨rfl, rfl, rfl, ⟨.byte 0xA5#8, rfl, h⟩, List.suffix_rfl, fun _ _ hv => hv⟩

theorem witness_DecodeOfEncodeIsTheInstruction :
    (Instr.setCursorMode false true).wellFormed = true ∧ encode (.setCursorMode false true) ≠ .words [] ∧
    (Instr.setCursor 15 1).wellFormed = true ∧ encode (.setCursor 15 1) ≠ .words [] ∧
    (Instr.write (List.replicate 16 0xFF#8)).wellFormed = true ∧
    encode (.write (List.replicate 16 0xFF#8)) ≠ .words [] ∧
    (Instr.shiftByte 0x80#8).wellFormed = true ∧ encode (.shiftByte 0x80#8) ≠ .words [] ∧
    (Instr.shiftCursorLeft 0).wellFormed = true ∧ encode (.shiftCursorLeft 0) = .words [] := by decide

theorem witness_DecodeReadsOnlyEncodings :
    decode (.words [0b000011100#9, 0b000011100#9]) = .ok (.shiftDisplayRight 2) ∧
    decode (.frame 0b0000000000101001011#19) = .ok (.shiftByte 0xA5#8) ∧
    decode (.words [0b000001111#9]) = .ok (.setCursorMode true true) := by decide

theorem witness_ExpansionSpellsTheTableWords :
    (Instr.setCursor 0 1).isPublic = true ∧ requestError (.setCursor 0 1) = none ∧
    (Instr.write [0xFF#8]).isPublic = true ∧ requestError (.write [0xFF#8]) = none := by decide

theorem witness_CommandBytesAreExactlyThe47 :
    (Instr.setCursor 15 0).isPublic = true ∧ requestError (.setCursor 15 0) = none ∧
    (0#1 ++ 0x8F#8 : LcdWord) ∈ itemWords false (items (.setCursor 15 0)) ∧
    (0#1 ++ 0xC0#8 : LcdWord) ∈ itemWords false (items (.setCursor 0 1)) := by decide

theorem witness_SetCursorByteIsSumAndPattern :
    ((0 : Int) ≤ 15 ∧ (15 : Int) ≤ 15 ∧ (0 : Int) ≤ 1 ∧ (1 : Int) ≤ 1) ∧
    ((-1 : Int) < 0 ∨ (-1 : Int) > 15 ∨ (0 : Int) < 0 ∨ (0 : Int) > 1) ∧
    ((0 : Int) < 0 ∨ (0 : Int) > 15 ∨ (2 : Int) < 0 ∨ (2 : Int) > 1) := by decide

theorem witness_ShiftBytePerformsItsTable :
    (atByte 63).seq = .run (.write [0xA5#8]) (items (.write [0xA5#8])) 1 63 ∧
    shiftByteTable 0xA5#8 63 = some .delay ∧ shiftByteTable 0xA5#8 0 = some (.set .registerClear false) ∧
    shiftByteTable 0xA5#8 64 = none := by decide

theorem witness_SerialFrameHasItsNineteenPulses :
    (shiftByteSteps 0xA5#8)[2]? = some (.set .registerClock true) ∧
    (shiftByteSteps 0xA5#8)[58]? = some (.set .registerClock true) := by decide

theorem witness_ShiftByteRunsItsSixtyFourSteps :
    (atByte 0).seq = .run (.write [0xA5#8]) (items (.write [0xA5#8])) 1 0 ∧
    (items (.write [0xA5#8]))[1]? = some (.byte 0xA5#8) ∧ (atByte 0).host = [] := by decide

theorem witness_ClearRegisterOpensEveryShiftByte :
    (atByte 32).seq = .run (.write [0xA5#8]) (items (.write [0xA5#8])) 1 32 ∧ 32 < 33 := by decide

theorem witness_ClearRegisterRunsItsThirtyThreeSteps :
    (atByte 0).seq = .run (.write [0xA5#8]) (items (.write [0xA5#8])) 1 0 ∧
    (items (.write [0xA5#8]))[1]? = some (.byte 0xA5#8) ∧ (atByte 0).host = [] := by decide

theorem witness_SetModeWritesOnlyTheModeLine :
    atMode.seq = .run (.write [0xA5#8]) (items (.write [0xA5#8])) 0 0 := by decide

theorem witness_PositionsOutsideTheTablesAreFaults :
    (∀ j : Nat, (atByte j).seq = .run (.write [0xA5#8]) (items (.write [0xA5#8])) 1 j) ∧
    64 ≤ 64 ∧ 33 ≤ 33 ∧ 1 ≤ 1 ∧
    { atMode with seq := .run (.write [0xA5#8]) (items (.write [0xA5#8])) 2 0 }.seq =
      .run (.write [0xA5#8]) (items (.write [0xA5#8])) 2 0 ∧
    (items (.write [0xA5#8])).length ≤ 2 ∧ atMode.host = [] :=
  ⟨fun _ => rfl, by decide, by decide, by decide, rfl, by decide, rfl⟩

theorem witness_MicroStepsChangeOneLatchAndAppendOneEvent : Line.registerData ≠ Line.lcdModeSelect := by decide

/-- The idle state from which the operations' statements run. -/
theorem witness_idle : ready.seq = .idle ∧ State.reset.seq = .idle := by decide

theorem witness_ConstructPerforms : ready.seq = .idle := rfl
theorem witness_SingleByteCommandsPerform : ready.seq = .idle := rfl
theorem witness_SettersPerform : ready.seq = .idle := rfl

theorem witness_SetCursorPerformsOrRejects : ready.seq = .idle ∧
    ((0 : Int) ≤ 15 ∧ (15 : Int) ≤ 15 ∧ (0 : Int) ≤ 1 ∧ (1 : Int) ≤ 1) ∧
    ((16 : Int) < 0 ∨ (16 : Int) > 15 ∨ (1 : Int) < 0 ∨ (1 : Int) > 1) ∧
    ((0 : Int) < 0 ∨ (0 : Int) > 15 ∨ (-1 : Int) < 0 ∨ (-1 : Int) > 1) := by decide

theorem witness_ShiftsRepeatTheirByte : ready.seq = .idle ∧ (-1 : Int) < 0 := by decide

theorem witness_WritePerformsOrRejects : ready.seq = .idle ∧
    (1 ≤ [0xFF#8].length ∧ [0xFF#8].length ≤ 16) ∧
    (1 ≤ (List.replicate 16 0x41#8).length ∧ (List.replicate 16 0x41#8).length ≤ 16) ∧
    ([] : List Byte).length = 0 ∧ (List.replicate 17 0x41#8).length > 16 := by decide

theorem witness_OperationSizes :
    (Instr.setCursor 16 0).isPublic = true ∧ requestError (.setCursor 16 0) ≠ none ∧
    (Instr.shiftCursorLeft (-1)).isPublic = true ∧ requestError (.shiftCursorLeft (-1)) = none ∧
    Instr.construct.isPublic = true ∧ requestError .construct = none := by decide

theorem witness_EndLevelsOfAnOperation :
    (Instr.write [0xA5#8]).isPublic = true ∧ requestError (.write [0xA5#8]) = none ∧
    requestError (.shiftCursorRight 0) = none ∧ (encode (.shiftCursorRight 0)).lcdWords = [] ∧
    (encode (.write [0xA5#8])).lcdWords.getLast? = some 0x1A5#9 ∧
    { ready with host := [.requestWhenIdle (.write [0xA5#8])] }.seq = .idle ∧
    { ready with host := [.requestWhenIdle (.shiftCursorRight 0)] }.host =
      [.requestWhenIdle (.shiftCursorRight 0)] := by decide

theorem witness_ModeIsStableBeforeTheEnable : Instr.home.isPublic = true ∧
    opEvents .home = [] ++ .set .lcdModeSelect false ::
      ((shiftByteSteps 0x02#8).take 61 ++ .set .lcdClock true :: [.set .lcdClock false, .delay]) := by decide

theorem witness_OnlyWriteAndSetCursorRaise : ready.seq = .idle ∧
    ((-1 : Int) < 0 ∨ (-1 : Int) > 15 ∨ (0 : Int) < 0 ∨ (0 : Int) > 1) ∧
    ((16 : Int) < 0 ∨ (16 : Int) > 15 ∨ (0 : Int) < 0 ∨ (0 : Int) > 1) ∧
    ((0 : Int) < 0 ∨ (0 : Int) > 15 ∨ (-1 : Int) < 0 ∨ (-1 : Int) > 1) ∧
    ((0 : Int) < 0 ∨ (0 : Int) > 15 ∨ (2 : Int) < 0 ∨ (2 : Int) > 1) ∧
    (List.replicate 17 0x41#8).length > 16 ∧
    answer (exec (.write []) ready) = some { ready with reports := [.done, .lengthErrorEmpty] } := by decide

theorem witness_StepRunsThePresentedRequest :
    { ready with host := [.request .home] }.seq = .idle ∧
    { ready with host := [.request .home] }.host = .request .home :: [] ∧
    { ready with host := [.requestWhenIdle .home, .reset] }.host = .requestWhenIdle .home :: [.reset] := by decide

theorem witness_StepRunsTheCurrentProcedure :
    (items (.write [0xA5#8]))[0]? = some (.mode true) ∧ (items (.write [0xA5#8]))[1]? = some (.byte 0xA5#8) ∧
    atMode.seq = .run (.write [0xA5#8]) (items (.write [0xA5#8])) 0 0 ∧ atMode.host = [] ∧
    (atByte 63).seq = .run (.write [0xA5#8]) (items (.write [0xA5#8])) 1 63 ∧
    { atByte 63 with host := [.requestWhenIdle .home] }.host = .requestWhenIdle .home :: [] ∧
    { atByte 63 with host := [.pass] }.host = .pass :: [] := by decide

theorem witness_FetchedTableWordRuns :
    decodeTableWord 16 0b011001111 = some (.setCursor 15 1) ∧ (Instr.setCursor 15 1).isPublic = true ∧
    decodeTableWord 24 0b0000000000101001011 = some (.shiftByte 0xA5#8) ∧
    (Instr.shiftByte 0xA5#8).isPublic = false := by decide

theorem witness_RequestWhileBusyIsRefused :
    { atByte 63 with host := [.request .clear] }.seq = .run (.write [0xA5#8]) (items (.write [0xA5#8])) 1 63 ∧
    { atByte 63 with host := [.request .clear] }.host = .request .clear :: [] ∧ Instr.clear.isPublic = true := by
  decide

theorem witness_InternalProceduresAreNotRequestable :
    { ready with host := [.request .clearRegister] }.seq = .idle ∧ Instr.clearRegister.isPublic = false ∧
    { ready with host := [.request .clearRegister] }.host = .request .clearRegister :: [] ∧
    { ready with host := [.requestWhenIdle .clearRegister] }.host = .requestWhenIdle .clearRegister :: [] := by decide

theorem witness_ResetAtAnyTime :
    { atByte 62 with host := [.reset, .request .home] }.host = .reset :: [.request .home] ∧
    Instr.home.isPublic = true := by decide

theorem witness_IdleBlockWaits : ready.seq = .idle ∧ ready.host = [] := by decide

theorem witness_RequestLatchIsFixedWhileRunning :
    (atByte 30).seq = .run (.write [0xA5#8]) (items (.write [0xA5#8])) 1 30 ∧
    (levels (step (atByte 30))).isSome = true := by decide

theorem witness_AStepPerformsAtMostOneEvent :
    (levels (step (atByte 63))).isSome = true ∧ (levels (step { ready with host := [.request .home] })).isSome = true ∧
    (atByte 63).host = [] := by decide

theorem witness_OnlySetModeWritesTheModeLine :
    answer (step atMode) = some { atMode with
      lines := ⟨none, none, none, none, some true⟩
      seq := .run (.write [0xA5#8]) (items (.write [0xA5#8])) 1 0
      trace := atMode.trace ++ [.set .lcdModeSelect true] } ∧
    (levels (step (atByte 61))).isSome = true := by decide

theorem witness_BehaviourIgnoresTheLatches :
    (levels (step (atByte 61))).isSome = true ∧ fault (step (atByte 64)) = some .positionOutOfRange ∧
    refusal (step { atByte 61 with host := [.request .home] }) = some .requestWhileBusy := by decide

theorem witness_EveryStepKeepsTheInvariant : BlockInv (atByte 63) ∧ (levels (step (atByte 63))).isSome = true :=
  ⟨atByte_inv (by decide), by decide⟩

/-- Each clause of the statement at the ends of its range. -/
theorem witness_LevelsWhileAByteIsSent :
    (∀ j ∈ [1, 31, 32, 35, 37, 56, 58, 60, 62, 63], BlockInv (atByte j)) ∧
    (∀ j : Nat, (atByte j).seq = .run (.write [0xA5#8]) (items (.write [0xA5#8])) 1 j) ∧
    (items (.write [0xA5#8]))[1]? = some (.byte 0xA5#8) :=
  ⟨fun j h => atByte_inv (by revert j; decide), fun _ => rfl, rfl⟩

theorem witness_EnableLineIsHighOnlyInItsPulse :
    (BlockInv { atByte 0 with lines := ⟨none, none, none, some false, some true⟩ } ∧
      (levels (step { atByte 0 with lines := ⟨none, none, none, some false, some true⟩ })).isSome = true ∧
      inEnablePulse (atByte 0).seq = false) ∧
    BlockInv (atByte 62) ∧ (∀ rest, (atByte 62).host ≠ .reset :: rest) ∧
    (levels (step (atByte 62))).isSome = true ∧
    (atByte 62).lines.lcdClock = some (inEnablePulse (atByte 62).seq) :=
  ⟨⟨⟨rfl, rfl, rfl, ⟨.byte 0xA5#8, rfl, by decide⟩, List.suffix_rfl,
      fun line v h => by cases line <;> first | exact h | cases h⟩, by decide, by decide⟩,
    atByte_inv (by decide), fun _ h => (List.cons_ne_nil _ _ h.symm).elim, by decide, by decide⟩

theorem witness_ADutifulHostNeverStopsTheBlock :
    BlockInv { atByte 63 with host := [.requestWhenIdle .home, .pass, .reset] } ∧
    { atByte 63 with host := [.requestWhenIdle .home, .pass, .reset] }.hostDutiful = true :=
  ⟨⟨rfl, rfl, rfl, ⟨.byte 0xA5#8, rfl, by decide⟩, List.suffix_rfl, fun _ _ hv => hv⟩, by decide⟩

theorem witness_EveryOperationTerminates : BlockInv (atByte 62) ∧
    (atByte 62).seq = .run (.write [0xA5#8]) (items (.write [0xA5#8])) 1 62 ∧ (atByte 62).host = [] :=
  ⟨atByte_inv (by decide), rfl, rfl⟩

theorem witness_AProgramsTraceIsItsRequestsTraces :
    [Instr.construct, .setCursor 16 0, .write [0x48#8, 0x69#8], .shiftDisplayLeft (-1)].all Instr.isPublic = true ∧
    { ready with host := [Instr.construct, .setCursor 16 0].map .requestWhenIdle }.seq = .idle ∧
    { ready with host := [Instr.construct, .setCursor 16 0].map .requestWhenIdle }.host =
      [Instr.construct, .setCursor 16 0].map .requestWhenIdle := by decide

theorem witness_TheLcdReceivesTheOperationsWords :
    (Instr.write [0x48#8, 0x69#8]).isPublic = true ∧ requestError (.write [0x48#8, 0x69#8]) = none := by decide

theorem witness_TheModePolicyChangesOnlyModeWrites :
    (Instr.shiftCursorLeft 3).isPublic = true ∧ (Instr.shiftCursorLeft 0).isPublic = true := by decide

/-- A host that presents `home`, lets it take `n` micro-steps, resets, and presents `clear`. -/
def cutHost (n : Nat) : List HostAction :=
  .requestWhenIdle .home :: (List.replicate n .pass ++ [.reset, .requestWhenIdle .clear])

/-- `home` cut short inside its enable pulse. -/
theorem witness_AResetCutsTheOperationShort :
    Instr.home.isPublic = true ∧ requestError .home = none ∧ Instr.clear.isPublic = true ∧
    requestError .clear = none ∧ ready.seq = .idle ∧ 63 < (opEvents .home).length ∧
    { ready with host := cutHost 63 }.host =
      .requestWhenIdle .home :: (List.replicate 63 .pass ++ [.reset, .requestWhenIdle .clear]) := by decide

theorem witness_ResetLevelsAreAnArgument :
    { atByte 62 with host := [.reset, .request .home] }.host = .reset :: [.request .home] ∧
    (∀ rest, (atByte 62).host ≠ .reset :: rest) :=
  ⟨rfl, fun _ h => (List.cons_ne_nil _ _ h.symm).elim⟩

theorem witness_RecoveryFromAResetAtKnownLevels :
    Instr.clear.isPublic = true ∧ requestError .clear = none ∧
    { atByte 62 with host := [.reset, .requestWhenIdle .clear] }.host = [.reset, .requestWhenIdle .clear] := by decide

theorem witness_ACutOperationDeliversItsCompletedPulses :
    (Instr.write [0x48#8, 0x69#8]).isPublic = true ∧ requestError (.write [0x48#8, 0x69#8]) = none ∧
    ((opEvents (.write [0x48#8, 0x69#8])).take 127).count (.set .lcdClock false) = 1 ∧
    Instr.clear.isPublic = true ∧ requestError .clear = none := by decide

end Sys2Proof.Tests
end

section
/-! PROOFS. The addresses and the instruction byte of `setCursor` (20_memory.md R57, 30_encoding.md R75). -/

namespace Sys2Proof.Machine

/-- The range check of R137: the column is 0 to 15 and the row is one of two. -/
theorem cursorInRange_iff (x y : Int) :
    cursorInRange x y = true ↔ 0 ≤ x ∧ x ≤ 15 ∧ (y = 0 ∨ y = 1) := by
  rw [cursorInRange, decide_eq_true_iff, Config.cols, Config.rows]
  omega

theorem requestError_setCursor_eq_none_iff (x y : Int) :
    requestError (.setCursor x y) = none ↔ cursorInRange x y = true := by
  simp [requestError]

@[simp] theorem items_setCursor (x y : Int) :
    items (.setCursor x y) = [.mode false, .byte (setCursorByte x y)] := rfl

/-- `SET_DDRAM` is bit 7 alone, so a 7-bit address stands unchanged in bits 6 to 0 of the byte. -/
theorem setCursorByte_eq_append {x y : Int} {a : BitVec 7} (h : (a.toNat : Int) = ddramAddress x y) :
    setCursorByte x y = 1#1 ++ a := by
  have hsum : Config.setDdram + ddramAddress x y = ((0x80 + a.toNat : Nat) : Int) := by
    rw [← h]; rfl
  have happend : (1#1 ++ a).toNat = 0x80 + a.toNat := by
    rw [BitVec.toNat_append, ← Nat.shiftLeft_add_eq_or_of_lt a.isLt]; rfl
  apply BitVec.eq_of_toNat_eq
  rw [setCursorByte, hsum, BitVec.ofInt_natCast, BitVec.toNat_ofNat, happend]
  omega

/-- The two rows of sixteen columns, as addresses. -/
theorem exists_ddramAddress_eq_iff (n : Nat) :
    (∃ x y : Int, cursorInRange x y = true ∧ (n : Int) = ddramAddress x y) ↔
      n ≤ 0x0F ∨ (0x40 ≤ n ∧ n ≤ 0x4F) := by
  simp only [cursorInRange_iff, ddramAddress, Config.row1Base]
  constructor
  · rintro ⟨x, y, ⟨hx0, hx15, rfl | rfl⟩, hn⟩
    · left; omega
    · right; omega
  · rintro (hrow0 | ⟨hlo, hhi⟩)
    · exact ⟨n, 0, by omega, by simp⟩
    · exact ⟨n - 0x40, 1, by omega, by simp⟩

/-- Settles O7: the byte of a valid `setCursor` carries its address in bits 6 to 0, and the addresses in range are
the two rows. -/
theorem setCursorEmitsTheThirtyTwoAddresses : Obligations.SetCursorEmitsTheThirtyTwoAddresses := by
  unfold Obligations.SetCursorEmitsTheThirtyTwoAddresses
  intro a
  rw [← exists_ddramAddress_eq_iff]
  constructor
  · rintro ⟨x, y, hvalid, -, haddr⟩
    exact ⟨x, y, (requestError_setCursor_eq_none_iff x y).mp hvalid, haddr⟩
  · rintro ⟨x, y, hrange, haddr⟩
    refine ⟨x, y, (requestError_setCursor_eq_none_iff x y).mpr hrange, ?_, haddr⟩
    rw [items_setCursor, setCursorByte_eq_append haddr]

end Sys2Proof.Machine
end

section
/-! PROOFS. The value and the bit pattern of the `setCursor` byte (30_encoding.md R75), and the request that emits
nothing (60_exceptions.md R164). -/

namespace Sys2Proof.Machine

/-- Within the ranges the integer sum of R75 lies between 0x80 and 0xCF, so taking 8 bits of it loses nothing. -/
theorem toNat_setCursorByte {x y : Int} (h : cursorInRange x y = true) :
    ((setCursorByte x y).toNat : Int) = 0x80 + x + if y = 1 then 0x40 else 0 := by
  obtain ⟨hx0, hx15, hy⟩ := (cursorInRange_iff x y).mp h
  simp only [setCursorByte, ddramAddress, Config.setDdram, Config.row1Base, BitVec.toNat_ofInt]
  split <;> omega

/-- The pattern `1y00xxxx` of R75 as a number: a high half of value 8 or 12, then the column. -/
theorem toNat_setCursorPattern {x y : Int} (h : cursorInRange x y = true) :
    ((1#1 ++ BitVec.ofInt 1 y ++ 0#1 ++ 0#1 ++ BitVec.ofInt 4 x).toNat : Int) =
      0x80 + x + if y = 1 then 0x40 else 0 := by
  obtain ⟨hx0, hx15, hy⟩ := (cursorInRange_iff x y).mp h
  have hcolumn : ((BitVec.ofInt 4 x).toNat : Int) = x := by
    rw [BitVec.toNat_ofInt]; omega
  have hhigh : (1#1 ++ BitVec.ofInt 1 y ++ 0#1 ++ 0#1).toNat = if y = 1 then 12 else 8 := by
    obtain rfl | rfl := hy <;> rfl
  rw [BitVec.toNat_append, ← Nat.shiftLeft_add_eq_or_of_lt (BitVec.ofInt 4 x).isLt, hhigh, Nat.shiftLeft_eq]
  split <;> omega

theorem setCursorByte_eq_pattern {x y : Int} (h : cursorInRange x y = true) :
    setCursorByte x y = 1#1 ++ BitVec.ofInt 1 y ++ 0#1 ++ 0#1 ++ BitVec.ofInt 4 x := by
  apply BitVec.eq_of_toNat_eq
  exact Int.ofNat.inj ((toNat_setCursorByte h).trans (toNat_setCursorPattern h).symm)

/-- A request answered with an error emits no event (60_exceptions.md R164). -/
theorem opEvents_of_requestError {op : Instr} {r : Report} (h : requestError op = some r) : opEvents op = [] := by
  rw [opEvents, h]

theorem requestError_setCursor_of_outOfRange {x y : Int} (h : x < 0 ∨ x > 15 ∨ y < 0 ∨ y > 1) :
    requestError (.setCursor x y) = some (.rangeError x y) := by
  refine if_neg fun hrange => ?_
  have := (cursorInRange_iff x y).mp hrange
  omega

/-- Settles O6: within the ranges the byte is the integer sum and the bit pattern, which are the same number; outside
them the request is a `RangeError`, which emits nothing. -/
theorem setCursorByteIsSumAndPattern : Obligations.SetCursorByteIsSumAndPattern := by
  unfold Obligations.SetCursorByteIsSumAndPattern
  refine ⟨fun x y hx0 hx15 hy0 hy1 => ?_, fun x y hout => ?_, by decide, by decide⟩
  · have hrange : cursorInRange x y = true := (cursorInRange_iff x y).mpr ⟨hx0, hx15, by omega⟩
    have hsum := toNat_setCursorByte hrange
    have hmax : (setCursorByte x y).toNat ≤ 0xCF := by
      split at hsum <;> omega
    exact ⟨hsum, hmax, setCursorByte_eq_pattern hrange⟩
  · exact opEvents_of_requestError (requestError_setCursor_of_outOfRange hout)

end Sys2Proof.Machine
end

section
/-! PROOFS. The pulses of the register clock in a `shiftByte` (30_encoding.md R71), from what one `shiftBit` puts out. -/

namespace Sys2Proof.Machine

/-- The data bits of a byte in the order they are shifted, least significant first (20_memory.md R51). -/
def shiftedBits (b : Byte) : List Level := (List.range Config.dataBits).map b.getLsbD

/-- The 64 micro-steps of `shiftByte(b)` as the two runs of `shiftBit` and what stands around them (R104, R105). -/
theorem shiftByteSteps_eq_shiftBits (b : Byte) :
    shiftByteSteps b =
      [.set .registerClear false] ++ (List.replicate 10 false).flatMap shiftBit ++
        [.set .registerClear true, .delay, .set .registerClock false] ++ (shiftedBits b).flatMap shiftBit ++
        pulse .registerClock ++ [.delay, .set .lcdClock true, .set .lcdClock false, .delay] := rfl

/-! The levels at the pulses. -/

/-- An event that is no rise of the register clock is no pulse. -/
theorem serialPulses_cons_of_ne (L : Latches) {e : Event} (es : List Event) (h : e ≠ .set .registerClock true) :
    serialPulses L (e :: es) = serialPulses (L.apply e) es := by
  rw [serialPulses]
  exact h

/-- What is read at the pulses of a trace, and then at those of what follows it. -/
theorem serialPulses_append (es fs : List Event) :
    ∀ L : Latches, serialPulses L (es ++ fs) = serialPulses L es ++ serialPulses (L.after es) fs := by
  induction es with
  | nil => exact fun L => rfl
  | cons e es ih =>
    intro L
    by_cases hrise : e = .set .registerClock true
    · subst hrise
      exact congrArg (_ :: ·) (ih _)
    · simp only [List.cons_append, serialPulses_cons_of_ne L _ hrise, ih, Latches.after_cons]

/-- `shiftBit(v)` leaves the data line at `v` and the clock low, and touches no other line (R103). -/
theorem after_shiftBit (L : Latches) (v : Level) :
    L.after (shiftBit v) = { L with registerData := some v, registerClock := some false } := rfl

/-- Each `shiftBit` of a run is one pulse, at its own data level and at the clear level the run begins with. -/
theorem serialPulses_shiftBits (vs : List Level) :
    ∀ L : Latches, serialPulses L (vs.flatMap shiftBit) = vs.map fun v => (some v, L.registerClear) := by
  induction vs with
  | nil => exact fun L => rfl
  | cons v vs ih =>
    intro L
    rw [List.flatMap_cons, serialPulses_append, after_shiftBit, ih]
    rfl

/-! A rise and its fall. -/

/-- Every rise of the register clock in this trace is followed at once by its fall. -/
def RisesFallAtOnce (es : List Event) : Prop :=
  ∀ j, es[j]? = some (.set .registerClock true) → es[j + 1]? = some (.set .registerClock false)

theorem RisesFallAtOnce.of_notMem {es : List Event} (h : Event.set .registerClock true ∉ es) : RisesFallAtOnce es :=
  fun _ hj => absurd (List.mem_of_getElem? hj) h

/-- The fall of a rise in the first trace is in the first trace too, so joining traces parts no rise from its fall. -/
theorem RisesFallAtOnce.append {es fs : List Event} (hes : RisesFallAtOnce es) (hfs : RisesFallAtOnce fs) :
    RisesFallAtOnce (es ++ fs) := by
  intro j hj
  by_cases hlt : j < es.length
  · rw [List.getElem?_append_left hlt] at hj
    have hfall := hes j hj
    rw [List.getElem?_append_left (List.getElem?_eq_some_iff.mp hfall).1, hfall]
  · rw [List.getElem?_append_right (by omega)] at hj
    rw [List.getElem?_append_right (by omega), Nat.sub_add_comm (by omega)]
    exact hfs _ hj

theorem risesFallAtOnce_pulse (line : Line) : RisesFallAtOnce (pulse line) := by
  rintro (_ | _ | j) hj
  · cases hj; rfl
  · cases hj
  · cases hj

theorem risesFallAtOnce_shiftBits (vs : List Level) : RisesFallAtOnce (vs.flatMap shiftBit) := by
  induction vs with
  | nil => exact .of_notMem (by simp)
  | cons v vs ih =>
    have hdata : RisesFallAtOnce [.set .registerData v] := .of_notMem (by simp)
    exact (hdata.append (risesFallAtOnce_pulse .registerClock)).append ih

theorem risesFallAtOnce_shiftByteSteps (b : Byte) : RisesFallAtOnce (shiftByteSteps b) := by
  rw [shiftByteSteps_eq_shiftBits]
  have hclear : RisesFallAtOnce [.set .registerClear false] := .of_notMem (by decide)
  have hbetween : RisesFallAtOnce [.set .registerClear true, .delay, .set .registerClock false] :=
    .of_notMem (by decide)
  have hend : RisesFallAtOnce [.delay, .set .lcdClock true, .set .lcdClock false, .delay] := .of_notMem (by decide)
  exact ((((hclear.append (risesFallAtOnce_shiftBits _)).append hbetween).append
    (risesFallAtOnce_shiftBits _)).append (risesFallAtOnce_pulse _)).append hend

/-! The data writes and the rises. -/

/-- Each `shiftBit` of a run is one write of the data line and then one rise. -/
theorem filter_isDataOrRise_shiftBits (vs : List Level) :
    (vs.flatMap shiftBit).filter Event.isDataOrRise =
      vs.flatMap fun v => [.set .registerData v, .set .registerClock true] := by
  rw [List.filter_flatMap]
  rfl

/-- Settles O15: the register-clear cycle and the data bits are runs of `shiftBit`, each one pulse, and the extra pulse
finds the data line where the last bit left it. -/
theorem serialFrameHasItsNineteenPulses : Obligations.SerialFrameHasItsNineteenPulses := by
  unfold Obligations.SerialFrameHasItsNineteenPulses
  refine ⟨fun L b => ?_, risesFallAtOnce_shiftByteSteps, fun b => ?_⟩
  · simp only [shiftByteSteps_eq_shiftBits, serialPulses_append, serialPulses_shiftBits]
    rfl
  · simp only [shiftByteSteps_eq_shiftBits, List.filter_append, filter_isDataOrRise_shiftBits]
    rfl

end Sys2Proof.Machine
end

section
/-! PROOFS. The two kinds of micro-step (40_register_shifter.md R100, R101), from the latches' write and read rules. -/

namespace Sys2Proof.Machine

/-- The line a `Set` writes holds the level written, whatever it held before (R100). -/
theorem State.get_perform_set_same (s : State) (line : Line) (v : Level) :
    (s.perform (.set line v)).lines.get line = some v := by
  rw [State.perform_lines, Latches.apply_set, Latches.get_set_same]

/-- The lines a `Set` does not write keep their latches (R100). -/
theorem State.get_perform_set_of_ne (s : State) {line other : Line} (v : Level) (h : other ≠ line) :
    (s.perform (.set line v)).lines.get other = s.lines.get other := by
  rw [State.perform_lines, Latches.apply_set, Latches.get_set_of_ne _ _ h]

/-- The frame of a micro-step of either kind: beyond the latches it only appends its event. -/
theorem State.perform_eq (s : State) (e : Event) :
    s.perform e = { s with lines := (s.perform e).lines, trace := s.trace ++ [e] } := rfl

/-- A `Delay` leaves the latches too, so it only appends its event (R101). -/
theorem State.perform_delay (s : State) : s.perform .delay = { s with trace := s.trace ++ [.delay] } := by
  rw [State.perform_eq, State.perform_lines, Latches.apply_delay]

/-- Settles O14: a `Set` is one latch write in the frame of a micro-step, and a `Delay` is that frame alone. -/
theorem microStepsChangeOneLatchAndAppendOneEvent : Obligations.MicroStepsChangeOneLatchAndAppendOneEvent := by
  unfold Obligations.MicroStepsChangeOneLatchAndAppendOneEvent
  intro s
  refine ⟨fun line v => ⟨?written, ?others, ?frame⟩, s.perform_delay⟩
  case written => exact s.get_perform_set_same line v
  case others => exact fun _ hne => s.get_perform_set_of_ne v hne
  case frame => exact s.perform_eq (.set line v)

end Sys2Proof.Machine
end

section
/-! PROOFS. The encoder and the decoder undo each other (30_encoding.md sections 2 to 4), row by row. -/

namespace Sys2Proof

open Machine

/-! Single words: each row's word decodes to the row's instruction. -/

/-- A character is read back from the low eight bits of its word (R77). -/
@[simp] theorem setWidth_characterWord (c : Byte) : (characterWord c).setWidth 8 = c :=
  BitVec.setWidth_append_eq_right

theorem getLsbD_characterWord (c : Byte) : (characterWord c).getLsbD 8 = true := by
  revert c; decide

theorem decodeWord_entryModeWord (d v : Bool) : decodeWord (entryModeWord d v) = .ok (.setEntryMode d v) := by
  revert d v; decide

theorem decodeWord_cursorModeWord (a k : Bool) :
    decodeWord (cursorModeWord a k) = .ok (.setCursorMode (a || k) k) := by
  revert a k; decide

/-- The 32 cursor words: the column in bits 3 to 0, the row in bit 6 (R75). -/
theorem decodeWord_setCursorWord_fin :
    ∀ (x : Fin 16) (y : Fin 2), decodeWord (setCursorWord x.val y.val) = .ok (.setCursor x.val y.val) := by
  decide

theorem decodeWord_setCursorWord {x y : Int} (h : (Instr.setCursor x y).wellFormed = true) :
    decodeWord (setCursorWord x y) = .ok (.setCursor x y) := by
  obtain ⟨hx0, hx15, hy0, hy1⟩ := of_decide_eq_true h
  obtain ⟨n, rfl⟩ := Int.eq_ofNat_of_zero_le hx0
  obtain ⟨m, rfl⟩ := Int.eq_ofNat_of_zero_le hy0
  exact decodeWord_setCursorWord_fin ⟨n, by omega⟩ ⟨m, by omega⟩

theorem decodeWord_characterWord (c : Byte) : decodeWord (characterWord c) = .ok (.write [c]) := by
  have hmode : characterWord c &&& 0x100#9 = 0x100#9 := by revert c; decide
  rw [decodeWord, if_pos hmode, setWidth_characterWord]

/-! All the words of an operation. -/

/-- Alone, any word but the first of `construct` is read as a word of the table. -/
theorem decodeOperation_singleton {w : LcdWord} (h : w ≠ 0b000111000#9) : decodeOperation [w] = decodeWord w :=
  if_neg h

/-- Two words or more: `construct`, a string of characters, or one shift repeated. -/
theorem decodeOperation_cons_cons (v w : LcdWord) (rest : List LcdWord) :
    decodeOperation (v :: w :: rest) =
      if v :: w :: rest = constructWords then .ok .construct
      else if (v :: w :: rest).all (fun u => u.getLsbD 8) then
        if (v :: w :: rest).length ≤ 16 then .ok (.write ((v :: w :: rest).map (fun u => u.setWidth 8)))
        else .error .tooManyCharacters
      else if (w :: rest).all (fun u => decide (u = v)) then
        match decodeShift v (v :: w :: rest).length with
        | some i => .ok i
        | none => .error .notOneOperation
      else .error .notOneOperation := rfl

/-- A shift word is no other row's, so one shift word is read as a shift of step 1 (log entry 18). -/
theorem decodeWord_of_decodeShift {w : LcdWord} {n : Int} {op : Instr} (h : decodeShift w n = some op) :
    ∃ op', decodeShift w 1 = some op' ∧ decodeWord w = .ok op' := by
  simp only [decodeShift] at h
  split_ifs at h with h1 h2 h3 h4
  · subst h1; exact ⟨_, rfl, rfl⟩
  · subst h2; exact ⟨_, rfl, rfl⟩
  · subst h3; exact ⟨_, rfl, rfl⟩
  · subst h4; exact ⟨_, rfl, rfl⟩

/-- A shift word is a command and not the function-set word. -/
theorem shiftWord_ne {w : LcdWord} {n : Int} {op : Instr} (h : decodeShift w n = some op) :
    w ≠ 0b000111000#9 ∧ w.getLsbD 8 = false := by
  simp only [decodeShift] at h
  split_ifs at h with h1 h2 h3 h4
  · subst h1; decide
  · subst h2; decide
  · subst h3; decide
  · subst h4; decide

/-- One or more equal shift words are one request, whose step is their number. -/
theorem decodeOperation_replicate {w : LcdWord} {n : Nat} {op : Instr} (hn : n ≠ 0)
    (h : decodeShift w n = some op) : decodeOperation (List.replicate n w) = .ok op := by
  obtain ⟨hw, hmode⟩ := shiftWord_ne h
  match n with
  | 1 =>
    obtain ⟨op', h1, hdecode⟩ := decodeWord_of_decodeShift h
    rw [Nat.cast_one, h1] at h
    cases h
    exact (decodeOperation_singleton hw).trans hdecode
  | k + 2 =>
    have hconstruct : w :: w :: List.replicate k w ≠ constructWords := fun he => hw (List.cons.inj he).1
    rw [List.replicate_succ, List.replicate_succ, decodeOperation_cons_cons, if_neg hconstruct]
    simp only [List.all_cons, hmode, Bool.false_and, Bool.false_eq_true, if_false, List.length_cons,
      List.length_replicate, decide_true, Bool.true_and]
    rw [if_pos (by simp), h]

theorem decodeOperation_map_characterWord {cs : List Byte} (hpos : 1 ≤ cs.length) (hmax : cs.length ≤ 16) :
    decodeOperation (cs.map characterWord) = .ok (.write cs) := by
  have hhead : ∀ c, characterWord c ≠ 0b000111000#9 := fun c he => by
    have hmode := getLsbD_characterWord c
    rw [he] at hmode
    cases hmode
  match cs with
  | [] => cases hpos
  | [c] => exact (decodeOperation_singleton (hhead c)).trans (decodeWord_characterWord c)
  | c :: d :: cs =>
    have hconstruct : characterWord c :: characterWord d :: cs.map characterWord ≠ constructWords :=
      fun he => hhead c (List.cons.inj he).1
    rw [List.map_cons, List.map_cons, decodeOperation_cons_cons, if_neg hconstruct, if_pos, if_pos]
    · simp [Function.comp_def]
    · simpa using hmax
    · simp [getLsbD_characterWord]

/-! The serial frame. -/

theorem decodeFrame_serialFrame (b : Byte) : decodeFrame (serialFrame b) = .ok (.shiftByte b) := by
  have hbits : ∀ b : Byte, ((serialFrame b).extractLsb' 9 10 = 0#10 ∧
      (serialFrame b).getLsbD 0 = (serialFrame b).getLsbD 1) ∧
      ((serialFrame b).extractLsb' 1 8).reverse = b := by decide
  obtain ⟨hframe, hbyte⟩ := hbits b
  rw [decodeFrame, if_pos hframe, hbyte]

/-- The words of a shift, none of them or all. -/
theorem decode_shift {w : LcdWord} {step : Int} {op : Instr} (h : 0 < step → decodeShift w step = some op) :
    (Encoded.words (List.replicate step.toNat w) = .words [] →
      decode (.words (List.replicate step.toNat w)) = .error .noWords) ∧
    (Encoded.words (List.replicate step.toNat w) ≠ .words [] →
      decode (.words (List.replicate step.toNat w)) = .ok op) := by
  refine ⟨fun hnone => by rw [hnone]; rfl, fun hsome => ?_⟩
  have hpos : 0 < step := by
    by_contra hle
    exact hsome (by rw [Int.toNat_of_nonpos (by omega), List.replicate_zero])
  refine decodeOperation_replicate (by omega) ?_
  rw [Int.toNat_of_nonneg hpos.le]
  exact h hpos

/-- Settles O2: row by row, a single word by its fields, a shift and a string by the number of their words. -/
theorem decodeOfEncodeIsTheInstruction : Obligations.DecodeOfEncodeIsTheInstruction := by
  unfold Obligations.DecodeOfEncodeIsTheInstruction
  intro op hop
  cases op with
  | shiftCursorLeft step => exact decode_shift fun _ => rfl
  | shiftCursorRight step => exact decode_shift fun _ => rfl
  | shiftDisplayLeft step => exact decode_shift fun _ => rfl
  | shiftDisplayRight step => exact decode_shift fun _ => rfl
  | construct => exact ⟨nofun, fun _ => rfl⟩
  | home => exact ⟨nofun, fun _ => rfl⟩
  | clear => exact ⟨nofun, fun _ => rfl⟩
  | displayOff => exact ⟨nofun, fun _ => rfl⟩
  | clearRegister => exact ⟨nofun, fun _ => rfl⟩
  | setMode m => exact ⟨nofun, fun _ => by cases m <;> rfl⟩
  | shiftByte b => exact ⟨nofun, fun _ => decodeFrame_serialFrame b⟩
  | setEntryMode d v =>
    have hw : entryModeWord d v ≠ 0b000111000#9 := by revert d v; decide
    exact ⟨nofun, fun _ => (decodeOperation_singleton hw).trans (decodeWord_entryModeWord d v)⟩
  | setCursorMode a k =>
    have hw : cursorModeWord a k ≠ 0b000111000#9 := by revert a k; decide
    exact ⟨nofun, fun _ => (decodeOperation_singleton hw).trans (decodeWord_cursorModeWord a k)⟩
  | setCursor x y =>
    have hdecode := decodeWord_setCursorWord hop
    have hw : setCursorWord x y ≠ 0b000111000#9 := fun he => by rw [he] at hdecode; cases hdecode
    exact ⟨nofun, fun _ => (decodeOperation_singleton hw).trans hdecode⟩
  | write string =>
    obtain ⟨hpos, hmax⟩ := of_decide_eq_true hop
    refine ⟨fun hnone => ?_, fun _ => decodeOperation_map_characterWord hpos hmax⟩
    rw [encode] at hnone ⊢
    rw [hnone]; rfl

/-! The converse: what a word, a list of words or a frame decodes to is encoded as that word, list or frame. -/

/-- An observation is the encoding of this instruction, which is well-formed and in its canonical spelling. -/
def Encodes (op : Instr) (e : Encoded) : Prop := op.wellFormed = true ∧ op.canonical = op ∧ encode op = e

theorem encodes_shift {w : LcdWord} {n : Nat} {op : Instr} (h : decodeShift w n = some op) :
    Encodes op (.words (List.replicate n w)) := by
  simp only [decodeShift] at h
  split_ifs at h with h1 h2 h3 h4
  · subst h1; cases h; exact ⟨rfl, rfl, rfl⟩
  · subst h2; cases h; exact ⟨rfl, rfl, rfl⟩
  · subst h3; cases h; exact ⟨rfl, rfl, rfl⟩
  · subst h4; cases h; exact ⟨rfl, rfl, rfl⟩

theorem characterWord_setWidth : ∀ w : LcdWord, w.getLsbD 8 = true → characterWord (w.setWidth 8) = w := by decide

theorem entryModeWord_of_row :
    ∀ w : LcdWord, w &&& 0x1FC#9 = 0b000000100#9 → entryModeWord (w.getLsbD 1) (w.getLsbD 0) = w := by decide

/-- The row of the cursor mode without the word the block never emits, `blink` without `active` (R74, R78). -/
theorem cursorModeWord_of_row : ∀ w : LcdWord, w &&& 0x1FC#9 = 0b000001100#9 → w ≠ 0b000001101#9 →
    (w.getLsbD 1 || w.getLsbD 0) = w.getLsbD 1 ∧ cursorModeWord (w.getLsbD 1) (w.getLsbD 0) = w := by decide

theorem setCursorWord_of_row : ∀ w : LcdWord, w &&& 0x1B0#9 = 0b010000000#9 →
    setCursorWord (w.toNat % 16 : Nat) (if w.getLsbD 6 then 1 else 0) = w := by decide

theorem encodes_setCursor {w : LcdWord} {y : Int} (hw : w &&& 0x1B0#9 = 0b010000000#9)
    (hy : (if w.getLsbD 6 then 1 else 0) = y) :
    Encodes (.setCursor (w.toNat % 16 : Nat) y) (.words [w]) := by
  have hword := setCursorWord_of_row w hw
  rw [hy] at hword
  refine ⟨decide_eq_true ?_, rfl, congrArg (Encoded.words [·]) hword⟩
  split at hy <;> omega

/-- A word that decodes is its instruction's one word, but for the function-set word, which opens `construct` (log
entry 18). -/
theorem encodes_of_decodeWord {w : LcdWord} {op : Instr} (hw : w ≠ 0b000111000#9) (h : decodeWord w = .ok op) :
    Encodes op (.words [w]) := by
  rw [decodeWord, if_neg hw] at h
  split_ifs at h with hchar hhome hclear hentry hnever hcursor hoff hset hrow
  · cases h
    have hmode : ∀ w : LcdWord, w &&& 0x100#9 = 0x100#9 → w.getLsbD 8 = true := by decide
    exact ⟨rfl, rfl, congrArg (Encoded.words [·]) (characterWord_setWidth w (hmode w hchar))⟩
  · subst hhome; cases h; exact ⟨rfl, rfl, rfl⟩
  · subst hclear; cases h; exact ⟨rfl, rfl, rfl⟩
  · cases h; exact ⟨rfl, rfl, congrArg (Encoded.words [·]) (entryModeWord_of_row w hentry)⟩
  · cases h
    obtain ⟨hactive, hword⟩ := cursorModeWord_of_row w hcursor hnever
    exact ⟨rfl, congrArg (Instr.setCursorMode · _) hactive, congrArg (Encoded.words [·]) hword⟩
  · subst hoff; cases h; exact ⟨rfl, rfl, rfl⟩
  · cases h; exact encodes_setCursor hset (if_pos hrow)
  · cases h; exact encodes_setCursor hset (if_neg hrow)
  · split at h
    · next hshift => cases h; exact encodes_shift (n := 1) hshift
    · cases h

theorem encodes_of_decodeOperation {ws : List LcdWord} {op : Instr} (h : decodeOperation ws = .ok op) :
    Encodes op (.words ws) := by
  match ws with
  | [] => cases h
  | [w] =>
    by_cases hw : w = 0b000111000#9
    · rw [decodeOperation, if_pos hw] at h; cases h
    · rw [decodeOperation_singleton hw] at h
      exact encodes_of_decodeWord hw h
  | v :: w :: rest =>
    rw [decodeOperation_cons_cons] at h
    split_ifs at h with hcon hchars hlen heq
    · cases h; exact ⟨rfl, rfl, congrArg Encoded.words hcon.symm⟩
    · cases h
      have hwf : 1 ≤ ((v :: w :: rest).map fun u => u.setWidth 8).length ∧
          ((v :: w :: rest).map fun u => u.setWidth 8).length ≤ 16 := by
        rw [List.length_map]
        exact ⟨Nat.succ_pos _, hlen⟩
      refine ⟨decide_eq_true hwf, rfl, congrArg Encoded.words ?_⟩
      rw [List.map_map]
      refine (List.map_congr_left fun u hu => ?_).trans (List.map_id _)
      exact characterWord_setWidth u (List.all_eq_true.mp hchars u hu)
    · split at h
      · next hshift =>
        cases h
        have hrep : v :: w :: rest = List.replicate (v :: w :: rest).length v :=
          List.eq_replicate_of_mem (by simpa using heq)
        rw [hrep]
        exact encodes_shift hshift
      · cases h

/-- The ten zeros, the byte and its last bit again make up the frame. -/
theorem serialFrame_of_decode {f : SerialFrame} (hzeros : f.extractLsb' 9 10 = 0#10)
    (hlast : f.getLsbD 0 = f.getLsbD 1) : serialFrame ((f.extractLsb' 1 8).reverse) = f := by
  have hlastBit : (f.extractLsb' 1 8).reverse.getLsbD 7 = f.getLsbD 0 := by
    rw [BitVec.getLsbD_reverse, hlast]
    simp [BitVec.getMsbD]
  have hpulse : BitVec.ofBool (f.getLsbD 0) = f.extractLsb' 0 1 := by
    ext i hi
    obtain rfl : i = 0 := by omega
    simp
  rw [serialFrame, BitVec.reverse_reverse_eq, hlastBit, hpulse, ← hzeros,
    BitVec.extractLsb'_append_extractLsb'_eq_extractLsb' (by rfl),
    BitVec.extractLsb'_append_extractLsb'_eq_extractLsb' (by rfl), BitVec.extractLsb'_eq_self]

theorem encodes_of_decodeFrame {f : SerialFrame} {op : Instr} (h : decodeFrame f = .ok op) :
    Encodes op (.frame f) := by
  rw [decodeFrame] at h
  split_ifs at h with hframe
  cases h
  exact ⟨rfl, rfl, congrArg Encoded.frame (serialFrame_of_decode hframe.1 hframe.2)⟩

/-- Settles O3: each format's reading, taken back. -/
theorem decodeReadsOnlyEncodings : Obligations.DecodeReadsOnlyEncodings := by
  unfold Obligations.DecodeReadsOnlyEncodings
  intro e op h
  cases e with
  | words ws => exact encodes_of_decodeOperation h
  | frame f => exact encodes_of_decodeFrame h
  | clearFrame f =>
    rw [decode] at h
    split_ifs at h with hf
    cases h
    exact ⟨rfl, rfl, congrArg Encoded.clearFrame hf.symm⟩
  | modeBit m =>
    cases h
    have hbit : ∀ m : BitVec 1, BitVec.ofBool (m.getLsbD 0) = m := by decide
    exact ⟨rfl, rfl, congrArg Encoded.modeBit (hbit m)⟩

end Sys2Proof
end

section
/-! PROOFS. What an operation's expansion is made of (30_encoding.md R82): mode selections, each followed by its bytes;
and the LCD words and events of such an expansion. -/

namespace Sys2Proof.Machine

/-! The expansion. -/

/-- The bytes an operation sends, grouped by the mode selections they follow: `construct` makes three (R131), every other
operation one. -/
def selections : Instr → List (List Byte)
  | .construct => [[Config.functionSet], [cursorModeByte false false], [entryModeByte true false]]
  | .home => [[0x02#8]]
  | .clear => [[0x01#8]]
  | .setEntryMode direction display => [[entryModeByte direction display]]
  | .setCursorMode active blink => [[cursorModeByte active blink]]
  | .displayOff => [[0x08#8]]
  | .setCursor x y => [[setCursorByte x y]]
  | .shiftCursorLeft step => [List.replicate (reps step) 0x10#8]
  | .shiftCursorRight step => [List.replicate (reps step) 0x14#8]
  | .shiftDisplayLeft step => [List.replicate (reps step) 0x18#8]
  | .shiftDisplayRight step => [List.replicate (reps step) 0x1C#8]
  | .write string => [string]
  | .shiftByte _ => []
  | .clearRegister => []
  | .setMode _ => []

/-- `selections` is what both policies expand, each selection at the operation's own mode level (R122). -/
theorem itemsUnder_eq_selections (policy : RsWritePolicy) {op : Instr} (h : op.isPublic = true) :
    itemsUnder policy op = (selections op).flatMap (selectAndSend policy (modeOf op)) := by
  cases op with
  | shiftByte b => cases h
  | clearRegister => cases h
  | setMode m => cases h
  | construct => simp only [itemsUnder, selections, modeOf, List.flatMap_cons, List.flatMap_nil, List.append_nil]
  | _ => exact (List.append_nil _).symm

theorem items_eq_selections {op : Instr} (h : op.isPublic = true) :
    items op = (selections op).flatMap (selectAndSend .oncePerOperation (modeOf op)) :=
  itemsUnder_eq_selections _ h

theorem selectAndSend_once (m : Level) (bs : List Byte) :
    selectAndSend .oncePerOperation m bs = .mode m :: bs.map .byte := rfl

/-- An operation begins with the selection of its mode, and selects no other (R122). -/
theorem items_eq_mode_cons {op : Instr} (h : op.isPublic = true) :
    ∃ its, items op = .mode (modeOf op) :: its ∧ ∀ m, Item.mode m ∈ its → m = modeOf op := by
  have hmode : ∀ m, Item.mode m ∈ items op → m = modeOf op := fun m hm => by
    rw [items_eq_selections h, List.mem_flatMap] at hm
    obtain ⟨bs, -, hbs⟩ := hm
    simpa [selectAndSend_once] using hbs
  have hfirst : ∃ its, items op = .mode (modeOf op) :: its := by
    cases op with
    | shiftByte b => cases h
    | clearRegister => cases h
    | setMode m => cases h
    | _ => exact ⟨_, rfl⟩
  obtain ⟨its, hits⟩ := hfirst
  exact ⟨its, hits, fun m hm => hmode m (hits ▸ List.mem_cons_of_mem _ hm)⟩

/-- The trace of a valid operation is the walk over its items. -/
theorem opEvents_of_valid {op : Instr} (h : requestError op = none) : opEvents op = itemEvents (items op) := by
  rw [opEvents, h]

/-! Its words. -/

/-- The LCD word of a byte sent at mode level `m` (30_encoding.md R70). -/
def lcdWord (m : Level) (b : Byte) : LcdWord := BitVec.ofBool m ++ b

theorem lcdWord_inj {m m' : Level} {b b' : Byte} (h : lcdWord m b = lcdWord m' b') : m = m' ∧ b = b' := by
  have hmode : ∀ (m : Level) (b : Byte), (lcdWord m b).getLsbD 8 = m := by decide
  constructor
  · rw [← hmode m b, h, hmode]
  · rw [← BitVec.setWidth_append_eq_right (a := BitVec.ofBool m) (b := b)]
    exact (congrArg (BitVec.setWidth 8) h).trans BitVec.setWidth_append_eq_right

theorem itemWords_bytes_append (m : Level) (bs : List Byte) (its : List Item) :
    itemWords m (bs.map .byte ++ its) = bs.map (lcdWord m) ++ itemWords m its := by
  induction bs with
  | nil => rfl
  | cons b bs ih => exact congrArg (lcdWord m b :: ·) ih

theorem itemWords_selections (m' : Level) (css : List (List Byte)) :
    ∀ m, itemWords m (css.flatMap (selectAndSend .oncePerOperation m')) = css.flatten.map (lcdWord m') := by
  induction css with
  | nil => exact fun _ => rfl
  | cons bs css ih =>
    intro m
    rw [List.flatMap_cons, selectAndSend_once, List.cons_append, itemWords, itemWords_bytes_append, ih,
      List.flatten_cons, List.map_append]

/-- The words of an operation are its bytes at its mode level, whatever the mode line held before. -/
theorem itemWords_items (m : Level) {op : Instr} (h : op.isPublic = true) :
    itemWords m (items op) = (selections op).flatten.map (lcdWord (modeOf op)) := by
  rw [items_eq_selections h, itemWords_selections]

/-! The rows of the opcode map, word by word. -/

theorem lcdWord_entryModeByte (d v : Bool) : lcdWord false (entryModeByte d v) = entryModeWord d v := by
  revert d v; decide

theorem lcdWord_cursorModeByte (a k : Bool) : lcdWord false (cursorModeByte a k) = cursorModeWord a k := by
  revert a k; decide

/-- The sum of R75 is the pattern `01y00xxxx`, by its bit pattern in R75. -/
theorem lcdWord_setCursorByte {x y : Int} (h : cursorInRange x y = true) :
    lcdWord false (setCursorByte x y) = setCursorWord x y := by
  rw [setCursorByte_eq_pattern h, setCursorWord]
  obtain ⟨-, -, rfl | rfl⟩ := (cursorInRange_iff x y).mp h
  · generalize BitVec.ofInt 4 x = c
    revert c; decide
  · generalize BitVec.ofInt 4 x = c
    revert c; decide

theorem reps_eq_toNat (step : Int) : reps step = step.toNat := by
  rw [reps]; split <;> omega

theorem selections_words_eq_encode {op : Instr} (hpub : op.isPublic = true) (hvalid : requestError op = none) :
    (selections op).flatten.map (lcdWord (modeOf op)) = (encode op).lcdWords := by
  have hshift : ∀ (step : Int) (b : Byte), [List.replicate (reps step) b].flatten.map (lcdWord false) =
      List.replicate step.toNat (lcdWord false b) := fun step b => by
    rw [List.flatten_singleton, List.map_replicate, reps_eq_toNat]
  cases op with
  | shiftByte b => cases hpub
  | clearRegister => cases hpub
  | setMode m => cases hpub
  | construct => rfl
  | home => rfl
  | clear => rfl
  | displayOff => rfl
  | setEntryMode d v => exact congrArg ([·]) (lcdWord_entryModeByte d v)
  | setCursorMode a k => exact congrArg ([·]) (lcdWord_cursorModeByte a k)
  | setCursor x y =>
    exact congrArg ([·]) (lcdWord_setCursorByte ((requestError_setCursor_eq_none_iff x y).mp hvalid))
  | shiftCursorLeft step => exact hshift step _
  | shiftCursorRight step => exact hshift step _
  | shiftDisplayLeft step => exact hshift step _
  | shiftDisplayRight step => exact hshift step _
  | write string => exact congrArg (List.map _) List.flatten_singleton

/-- Settles O4: both sides are the operation's bytes at its mode level. -/
theorem expansionSpellsTheTableWords : Obligations.ExpansionSpellsTheTableWords := by
  unfold Obligations.ExpansionSpellsTheTableWords
  intro op m hpub hvalid
  rw [itemWords_items m hpub, selections_words_eq_encode hpub hvalid]

/-! The bytes of the command mode. -/

/-- The instruction bytes of R72 other than the cursor's. -/
def singleCommandBytes : List Byte :=
  [0x01#8, 0x02#8, 0x04#8, 0x05#8, 0x06#8, 0x07#8, 0x08#8, 0x0C#8, 0x0E#8, 0x0F#8, 0x10#8, 0x14#8, 0x18#8, 0x1C#8,
    0x38#8]

/-- The 47 byte values of R72: fifteen single ones, and the two rows of the cursor. -/
def IsCommandByte (b : Byte) : Prop :=
  b ∈ singleCommandBytes ∨ (0x80#8 ≤ b ∧ b ≤ 0x8F#8) ∨ (0xC0#8 ≤ b ∧ b ≤ 0xCF#8)

/-- Requests that between them send the fifteen single byte values. -/
def singleByteRequests : List Instr :=
  [.clear, .home, .setEntryMode false false, .setEntryMode false true, .setEntryMode true false,
    .setEntryMode true true, .displayOff, .setCursorMode false false, .setCursorMode true false,
    .setCursorMode true true, .shiftCursorLeft 1, .shiftCursorRight 1, .shiftDisplayLeft 1, .shiftDisplayRight 1,
    .construct]

/-- The bytes of the cursor are those of its two rows (R75). -/
theorem exists_setCursorByte_eq_iff (b : Byte) :
    (∃ x y : Int, cursorInRange x y = true ∧ setCursorByte x y = b) ↔
      (0x80#8 ≤ b ∧ b ≤ 0x8F#8) ∨ (0xC0#8 ≤ b ∧ b ≤ 0xCF#8) := by
  simp only [BitVec.le_def, BitVec.toNat_ofNat, Nat.reducePow, Nat.reduceMod]
  constructor
  · rintro ⟨x, y, hrange, rfl⟩
    have hsum := toNat_setCursorByte hrange
    obtain ⟨hx0, hx15, rfl | rfl⟩ := (cursorInRange_iff x y).mp hrange
    · left; rw [if_neg (by decide)] at hsum; omega
    · right; rw [if_pos rfl] at hsum; omega
  · have hbyte : ∀ {x y : Int}, cursorInRange x y = true → (b.toNat : Int) = 0x80 + x + (if y = 1 then 0x40 else 0) →
        setCursorByte x y = b := fun hrange hb =>
      BitVec.eq_of_toNat_eq (Int.ofNat.inj ((toNat_setCursorByte hrange).trans hb.symm))
    rintro (⟨hlo, hhi⟩ | ⟨hlo, hhi⟩)
    · have hrange : cursorInRange (b.toNat - 0x80 : Int) 0 = true := (cursorInRange_iff _ _).mpr (by omega)
      exact ⟨_, 0, hrange, hbyte hrange (by rw [if_neg (by decide)]; omega)⟩
    · have hrange : cursorInRange (b.toNat - 0xC0 : Int) 1 = true := (cursorInRange_iff _ _).mpr (by omega)
      exact ⟨_, 1, hrange, hbyte hrange (by rw [if_pos rfl]; omega)⟩

/-- A byte of a valid operation in command mode is one of the 47. -/
theorem isCommandByte_of_mem {op : Instr} {b : Byte} (hpub : op.isPublic = true) (hvalid : requestError op = none)
    (hmode : modeOf op = false) (hb : b ∈ (selections op).flatten) : IsCommandByte b := by
  have hshift : ∀ {step : Int} {c : Byte}, b ∈ [List.replicate (reps step) c].flatten → b = c := fun h => by
    rw [List.flatten_singleton] at h
    exact (List.mem_replicate.mp h).2
  have hone : ∀ {c : Byte}, b ∈ [[c]].flatten → b = c := List.mem_singleton.mp
  cases op with
  | shiftByte c => cases hpub
  | clearRegister => cases hpub
  | setMode m => cases hpub
  | write string => cases hmode
  | setCursor x y =>
    have hrange := (requestError_setCursor_eq_none_iff x y).mp hvalid
    exact .inr ((exists_setCursorByte_eq_iff b).mp ⟨x, y, hrange, (hone hb).symm⟩)
  | construct =>
    have hall : ∀ c ∈ (selections .construct).flatten, c ∈ singleCommandBytes := by decide
    exact .inl (hall b hb)
  | home => rw [hone hb]; exact .inl (by decide)
  | clear => rw [hone hb]; exact .inl (by decide)
  | displayOff => rw [hone hb]; exact .inl (by decide)
  | setEntryMode d v =>
    have hall : ∀ d v, entryModeByte d v ∈ singleCommandBytes := by decide
    rw [hone hb]; exact .inl (hall d v)
  | setCursorMode a k =>
    have hall : ∀ a k, cursorModeByte a k ∈ singleCommandBytes := by decide
    rw [hone hb]; exact .inl (hall a k)
  | shiftCursorLeft step => rw [hshift hb]; exact .inl (by decide)
  | shiftCursorRight step => rw [hshift hb]; exact .inl (by decide)
  | shiftDisplayLeft step => rw [hshift hb]; exact .inl (by decide)
  | shiftDisplayRight step => rw [hshift hb]; exact .inl (by decide)

/-- Each of the 47 is a byte of a valid operation in command mode. -/
theorem exists_request_of_isCommandByte {b : Byte} (h : IsCommandByte b) :
    ∃ op : Instr, op.isPublic = true ∧ requestError op = none ∧ modeOf op = false ∧ b ∈ (selections op).flatten := by
  obtain hsingle | hcursor := h
  · have hall : ∀ b ∈ singleCommandBytes, ∃ op ∈ singleByteRequests, op.isPublic = true ∧ requestError op = none ∧
        modeOf op = false ∧ b ∈ (selections op).flatten := by decide
    obtain ⟨op, -, hop⟩ := hall b hsingle
    exact ⟨op, hop⟩
  · obtain ⟨x, y, hrange, rfl⟩ := (exists_setCursorByte_eq_iff b).mpr hcursor
    exact ⟨.setCursor x y, rfl, (requestError_setCursor_eq_none_iff x y).mpr hrange, rfl, List.mem_singleton_self _⟩

/-- Settles O5: a command-mode word is a byte of an operation other than `write`, and `write` sends any byte. -/
theorem commandBytesAreExactlyThe47 : Obligations.CommandBytesAreExactlyThe47 := by
  unfold Obligations.CommandBytesAreExactlyThe47
  refine ⟨fun b => ⟨?emitted, fun hb => ?request⟩, fun b => ⟨.write [b], rfl, rfl, List.mem_singleton_self _⟩⟩
  case emitted =>
    rintro ⟨op, hpub, hvalid, hword⟩
    rw [itemWords_items false hpub, List.mem_map] at hword
    obtain ⟨c, hc, hword⟩ := hword
    obtain ⟨hmode, rfl⟩ := lcdWord_inj (m' := false) (b' := b) hword
    exact isCommandByte_of_mem hpub hvalid hmode hc
  case request =>
    obtain ⟨op, hpub, hvalid, hmode, hmem⟩ := exists_request_of_isCommandByte hb
    refine ⟨op, hpub, hvalid, ?_⟩
    rw [itemWords_items false hpub, hmode]
    exact List.mem_map_of_mem hmem

end Sys2Proof.Machine
end

section
/-! PROOFS. How many events of each kind a procedure and an operation have (40_register_shifter.md R106,
42_lcd_driver_ops.md R146), and how far a mode write stands before an enable pulse (20_memory.md R61). -/

namespace Sys2Proof.Machine

/-! One `shiftByte`. -/

/-- Each `shiftBit` writes the data line once, to one of its two levels. -/
theorem count_data_shiftBits (vs : List Level) :
    (vs.flatMap shiftBit).count (.set .registerData false) + (vs.flatMap shiftBit).count (.set .registerData true) =
      vs.length := by
  induction vs with
  | nil => rfl
  | cons v vs ih =>
    have hone : (shiftBit v).count (.set .registerData false) + (shiftBit v).count (.set .registerData true) = 1 := by
      revert v; decide
    rw [List.flatMap_cons, List.count_append, List.count_append, List.length_cons, ← ih, ← hone]
    omega

theorem count_data_shiftByteSteps (b : Byte) :
    (shiftByteSteps b).count (.set .registerData false) + (shiftByteSteps b).count (.set .registerData true) = 18 := by
  have hzeros := count_data_shiftBits (List.replicate 10 false)
  have hbits := count_data_shiftBits (shiftedBits b)
  have hlength : (shiftedBits b).length = 8 := rfl
  have hrest : ∀ v, ([.set .registerClear false] : List Event).count (.set .registerData v) = 0 ∧
      [Event.set .registerClear true, .delay, .set .registerClock false].count (.set .registerData v) = 0 ∧
      (pulse .registerClock).count (.set .registerData v) = 0 ∧
      [Event.delay, .set .lcdClock true, .set .lcdClock false, .delay].count (.set .registerData v) = 0 := by decide
  simp only [shiftByteSteps_eq_shiftBits, List.count_append, hrest]
  rw [List.length_replicate] at hzeros
  omega

/-- Settles O16: the shape is R105's by definition, and every count but the data line's is of events that do not
depend on the byte. -/
theorem shiftByteShapeAndCounts : Obligations.ShiftByteShapeAndCounts := by
  unfold Obligations.ShiftByteShapeAndCounts
  intro b
  refine ⟨?shape, rfl, rfl, rfl, ?data, rfl, rfl, rfl, rfl, rfl, rfl, rfl, rfl⟩
  case shape => rfl
  case data => exact count_data_shiftByteSteps b

/-! An operation. -/

theorem itemEvents_bytes_length (bs : List Byte) : (itemEvents (bs.map .byte)).length = 64 * bs.length := by
  induction bs with
  | nil => rfl
  | cons b bs ih =>
    rw [List.map_cons, itemEvents_cons, List.length_append, ih, Item.steps_byte, shiftByteSteps_length,
      List.length_cons]
    omega

/-- An event that every `shiftByte` has `k` times. -/
theorem count_itemEvents_bytes {e : Event} {k : Nat} (hk : ∀ b, (shiftByteSteps b).count e = k) (bs : List Byte) :
    (itemEvents (bs.map .byte)).count e = k * bs.length := by
  induction bs with
  | nil => rfl
  | cons b bs ih =>
    rw [List.map_cons, itemEvents_cons, List.count_append, ih, Item.steps_byte, hk, List.length_cons]
    ring

/-- One micro-step per mode selection and 64 per byte. -/
theorem itemEvents_selections_length (m : Level) (css : List (List Byte)) :
    (itemEvents (css.flatMap (selectAndSend .oncePerOperation m))).length = css.length + 64 * css.flatten.length := by
  induction css with
  | nil => rfl
  | cons bs css ih =>
    simp only [List.flatMap_cons, selectAndSend_once, List.cons_append, itemEvents_cons, itemEvents_append,
      List.length_append, itemEvents_bytes_length, ih, Item.steps_mode, List.length_cons, List.length_nil,
      List.flatten_cons]
    omega

/-- An event that every `shiftByte` has `k` times, counted in an operation. -/
theorem count_itemEvents_selections {e : Event} {k : Nat} (m : Level) (hk : ∀ b, (shiftByteSteps b).count e = k)
    (css : List (List Byte)) :
    (itemEvents (css.flatMap (selectAndSend .oncePerOperation m))).count e =
      css.length * (setModeSteps m).count e + k * css.flatten.length := by
  induction css with
  | nil => simp
  | cons bs css ih =>
    simp only [List.flatMap_cons, selectAndSend_once, List.cons_append, itemEvents_cons, itemEvents_append,
      List.count_append, count_itemEvents_bytes hk, ih, Item.steps, List.length_cons, List.flatten_cons,
      List.length_append]
    ring

/-- The bytes of an operation are as many as R146 says. -/
theorem selections_flatten_length (op : Instr) (hpub : op.isPublic = true) :
    (selections op).flatten.length = byteCount op := by
  have hshift : ∀ (step : Int) (b : Byte), [List.replicate (reps step) b].flatten.length = (max step 0).toNat :=
    fun step b => by
      rw [List.flatten_singleton, List.length_replicate, reps_eq_toNat]
      omega
  cases op with
  | shiftByte b => cases hpub
  | clearRegister => cases hpub
  | setMode m => cases hpub
  | shiftCursorLeft step => exact hshift step _
  | shiftCursorRight step => exact hshift step _
  | shiftDisplayLeft step => exact hshift step _
  | shiftDisplayRight step => exact hshift step _
  | write string => exact congrArg List.length List.flatten_singleton
  | _ => rfl

theorem selections_length (op : Instr) (hpub : op.isPublic = true) :
    (selections op).length = if op = .construct then 3 else 1 := by
  cases op with
  | shiftByte b => cases hpub
  | clearRegister => cases hpub
  | setMode m => cases hpub
  | _ => rfl

/-- A mode selection is one write of the mode line, to one of its two levels. -/
theorem count_mode_setModeSteps (m : Level) :
    (setModeSteps m).count (.set .lcdModeSelect false) + (setModeSteps m).count (.set .lcdModeSelect true) = 1 := by
  revert m; decide

/-- Settles O23: each count is that of one `shiftByte` times the bytes, and that of one `setMode` times the selections. -/
theorem operationSizes : Obligations.OperationSizes := by
  unfold Obligations.OperationSizes
  intro op hpub
  cases hvalid : requestError op with
  | some r =>
    rw [opEvents_of_requestError hvalid]
    exact ⟨0, 0, rfl, rfl, rfl, rfl, rfl, fun _ => ⟨rfl, rfl⟩, nofun, nofun⟩
  | none =>
    have hcount : ∀ {e : Event} {k : Nat}, (∀ b, (shiftByteSteps b).count e = k) →
        (opEvents op).count e = (selections op).length * (setModeSteps (modeOf op)).count e +
          k * (selections op).flatten.length := fun hk => by
      rw [opEvents_of_valid hvalid, items_eq_selections hpub, count_itemEvents_selections _ hk]
    refine ⟨(selections op).length, (selections op).flatten.length, ?length, ?mode, ?clock, ?enable, ?delay,
      fun h => absurd rfl h, fun _ => selections_length op hpub, fun _ => selections_flatten_length op hpub⟩
    case length => rw [opEvents_of_valid hvalid, items_eq_selections hpub, itemEvents_selections_length]
    case mode =>
      rw [hcount (k := 0) fun _ => rfl, hcount (k := 0) fun _ => rfl, Nat.zero_mul, Nat.add_zero, Nat.add_zero,
        ← Nat.mul_add, count_mode_setModeSteps, Nat.mul_one]
    case clock => rw [hcount (k := 19) fun _ => rfl]; simp [setModeSteps]
    case enable => rw [hcount (k := 1) fun _ => rfl]; simp [setModeSteps]
    case delay => rw [hcount (k := 3) fun _ => rfl]; simp [setModeSteps]

/-! The mode line before the enable pulse. -/

/-- At least 61 events, two of them Delays, stand before any rise of the enable line in this trace. -/
def EnableStandsLate (es : List Event) : Prop :=
  ∀ between after, es = between ++ .set .lcdClock true :: after → 61 ≤ between.length ∧ 2 ≤ between.count .delay

/-- What stands before an event in `xs ++ ys` holds all of `xs`, if the event is not in `xs`. -/
theorem isPrefix_of_append_eq_of_notMem {α : Type} {e : α} {xs ys between after : List α} (he : e ∉ xs)
    (h : xs ++ ys = between ++ e :: after) : xs <+: between := by
  obtain ⟨zs, hbetween, -⟩ | ⟨zs, hxs, htail⟩ := List.append_eq_append_iff.mp h
  · exact ⟨zs, hbetween.symm⟩
  · cases zs with
    | nil => exact ⟨[], by rw [hxs, List.append_nil, List.append_nil]⟩
    | cons z zs => exact absurd (by rw [hxs, (List.cons.inj htail).1]; simp) he

/-- The enable line rises after the 61 micro-steps that clear and load the register (R105). -/
theorem enableStandsLate_byte (b : Byte) (es : List Event) : EnableStandsLate (shiftByteSteps b ++ es) := by
  intro between after h
  have hrise : Event.set .lcdClock true ∉ (shiftByteSteps b).take 61 := by
    rw [← List.count_eq_zero]; rfl
  rw [← List.take_append_drop 61 (shiftByteSteps b), List.append_assoc] at h
  have hpre := isPrefix_of_append_eq_of_notMem hrise h
  have hdelays : ((shiftByteSteps b).take 61).count .delay = 2 := rfl
  exact ⟨hpre.length_le, hdelays ▸ hpre.sublist.count_le _⟩

theorem enableStandsLate_itemEvents (its : List Item) : EnableStandsLate (itemEvents its) := by
  induction its with
  | nil => exact fun _ _ h => absurd h (by simp)
  | cons item its ih =>
    rw [itemEvents_cons]
    cases item with
    | byte b => exact enableStandsLate_byte b _
    | mode m =>
      intro between after h
      cases between with
      | nil => cases h
      | cons e between =>
        obtain ⟨rfl, htail⟩ := List.cons.inj h
        obtain ⟨hlength, hdelays⟩ := ih between after htail
        exact ⟨hlength.trans (Nat.le_succ _), hdelays.trans ((List.sublist_cons_self _ _).count_le _)⟩

/-- What follows a write of the mode line is the walk over the items after its `Mode` item. -/
theorem enableStandsLate_after_mode (its : List Item) :
    ∀ {m : Level} {before rest : List Event}, itemEvents its = before ++ .set .lcdModeSelect m :: rest →
      EnableStandsLate rest := by
  induction its with
  | nil => exact fun h => absurd h (by simp)
  | cons item its ih =>
    intro m before rest h
    rw [itemEvents_cons] at h
    cases item with
    | byte b =>
      have hmode : Event.set .lcdModeSelect m ∉ shiftByteSteps b := by
        rw [← List.count_eq_zero]; cases m <;> rfl
      obtain ⟨before', rfl⟩ := isPrefix_of_append_eq_of_notMem hmode h
      rw [Item.steps_byte, List.append_assoc] at h
      exact ih (List.append_cancel_left h)
    | mode m' =>
      cases before with
      | nil =>
        obtain ⟨-, rfl⟩ := List.cons.inj h
        exact enableStandsLate_itemEvents its
      | cons e before => exact ih (List.cons.inj h).2

/-- Settles O25: after a mode write comes a walk over items, and in such a walk the enable line first rises within a
byte. -/
theorem modeIsStableBeforeTheEnable : Obligations.ModeIsStableBeforeTheEnable := by
  unfold Obligations.ModeIsStableBeforeTheEnable
  intro op m before between after _ hsplit
  cases hvalid : requestError op with
  | some r =>
    rw [opEvents_of_requestError hvalid] at hsplit
    exact absurd hsplit (by simp)
  | none =>
    rw [opEvents_of_valid hvalid] at hsplit
    exact enableStandsLate_after_mode (items op) hsplit between after rfl

end Sys2Proof.Machine
end

section
/-! PROOFS. What the LCD receives of an operation, whole or cut short, under the device assumptions (20_memory.md R63 to
R66), and that it does not depend on `RS_WRITE_POLICY` (30_encoding.md R82). -/

namespace Sys2Proof.Machine

/-! One byte. -/

/-- The levels a `shiftByte` leaves, from any (40_register_shifter.md R108). -/
@[simp] theorem after_shiftByteSteps (L : Latches) (b : Byte) :
    L.after (shiftByteSteps b) =
      ⟨some (b.getLsbD 7), some false, some true, some false, L.lcdModeSelect⟩ := rfl

/-- Each `shiftBit` clocks its level into the register (R63). -/
theorem lcdWordsSeen_shiftBits (vs : List Level) :
    ∀ (L : Latches) (shifted : List (Option Level)) (es : List Event),
      lcdWordsSeen L shifted (vs.flatMap shiftBit ++ es) =
        lcdWordsSeen (L.after (vs.flatMap shiftBit)) (shifted ++ vs.map some) es := by
  induction vs with
  | nil => exact fun L shifted es => by rw [List.map_nil, List.append_nil]; rfl
  | cons v vs ih =>
    intro L shifted es
    have hbit : ∀ fs, lcdWordsSeen L shifted (shiftBit v ++ fs) =
        lcdWordsSeen (L.after (shiftBit v)) (shifted ++ [some v]) fs := fun _ => rfl
    rw [List.flatMap_cons, List.append_assoc, hbit, ih, Latches.after_append, List.append_assoc]
    rfl

/-- The eight data levels before the extra one are the byte on the data pins. -/
theorem byteOfLevels_shiftedBits (b : Byte) (rest : List (Option Level)) :
    byteOfLevels ((shiftedBits b).map some ++ rest) = some b := by
  have hbits : ∀ b : Byte, BitVec.ofBool (b.getLsbD 7) ++ BitVec.ofBool (b.getLsbD 6) ++ BitVec.ofBool (b.getLsbD 5) ++
      BitVec.ofBool (b.getLsbD 4) ++ BitVec.ofBool (b.getLsbD 3) ++ BitVec.ofBool (b.getLsbD 2) ++
      BitVec.ofBool (b.getLsbD 1) ++ BitVec.ofBool (b.getLsbD 0) = b := by decide
  exact congrArg some (hbits b)

/-- What the register holds after a `shiftByte`: the data bits and the extra level, whatever it held before (R64). -/
def registerAfter (b : Byte) : List (Option Level) := (shiftedBits b).map some ++ [some (b.getLsbD 7)]

theorem sampledWord_registerAfter (L : Latches) (b : Byte) :
    sampledWord L (registerAfter b) = L.lcdModeSelect.map (lcdWord · b) := by
  rw [sampledWord, registerAfter, byteOfLevels_shiftedBits]
  cases L.lcdModeSelect <;> rfl

/-- After the data bits the extra pulse clocks the data level in once more, and the enable pulse delivers the word. -/
theorem lcdWordsSeen_extra_enable (L : Latches) (shifted : List (Option Level)) (es : List Event) :
    lcdWordsSeen L shifted (pulse .registerClock ++ ([.delay, .set .lcdClock true, .set .lcdClock false, .delay] ++ es)) =
      sampledWord L (shifted ++ [L.registerData]) ::
        lcdWordsSeen { L with registerClock := some false, lcdClock := some false } (shifted ++ [L.registerData]) es := rfl

/-- A `shiftByte` delivers one word: its byte, at the level the mode line holds. -/
theorem lcdWordsSeen_shiftByteSteps (L : Latches) (shifted : List (Option Level)) (b : Byte) (es : List Event) :
    lcdWordsSeen L shifted (shiftByteSteps b ++ es) =
      L.lcdModeSelect.map (lcdWord · b) ::
        lcdWordsSeen (L.after (shiftByteSteps b)) (registerAfter b) es := by
  have hclear : ∀ fs, lcdWordsSeen L shifted ([.set .registerClear false] ++ fs) =
      lcdWordsSeen (L.set .registerClear false) [] fs := fun _ => rfl
  have hready : ∀ (L : Latches) (zeros : List (Option Level)) fs,
      lcdWordsSeen L zeros ([.set .registerClear true, .delay, .set .registerClock false] ++ fs) =
        lcdWordsSeen { L with registerClear := some true, registerClock := some false } [] fs := fun _ _ _ => rfl
  have hzeros : ∀ L : Latches, L.after ((List.replicate 10 false).flatMap shiftBit) =
      { L with registerData := some false, registerClock := some false } := fun _ => rfl
  have hbits : ∀ L : Latches, L.after ((shiftedBits b).flatMap shiftBit) =
      { L with registerData := some (b.getLsbD 7), registerClock := some false } := fun _ => rfl
  have hregister : (shiftedBits b).map some ++ [some (b.getLsbD 7)] = registerAfter b := rfl
  simp only [shiftByteSteps_eq_shiftBits, List.append_assoc, hclear, lcdWordsSeen_shiftBits, hready,
    lcdWordsSeen_extra_enable, hzeros, hbits, List.nil_append, hregister, sampledWord_registerAfter]
  rfl

/-! An operation. -/

theorem lcdWordsSeen_itemEvents (its : List Item) :
    ∀ {L : Latches} {m : Level} (shifted : List (Option Level)), L.lcdModeSelect = some m →
      lcdWordsSeen L shifted (itemEvents its) = (itemWords m its).map some := by
  induction its with
  | nil => exact fun _ _ => rfl
  | cons item its ih =>
    intro L m shifted hm
    rw [itemEvents_cons]
    cases item with
    | mode m' => exact ih (L := L.set .lcdModeSelect m') shifted rfl
    | byte b =>
      rw [Item.steps_byte, lcdWordsSeen_shiftByteSteps, ih (L := L.after (shiftByteSteps b)) _ hm, hm]
      rfl

/-- After a mode selection the words do not depend on the level the mode line held before it. -/
theorem lcdWordsSeen_mode_cons (L : Latches) (shifted : List (Option Level)) (m m' : Level) (its : List Item) :
    lcdWordsSeen L shifted (itemEvents (.mode m' :: its)) = (itemWords m (.mode m' :: its)).map some :=
  lcdWordsSeen_itemEvents its (L := L.set .lcdModeSelect m') shifted rfl

theorem lcdWordsSeen_opEvents (L : Latches) (shifted : List (Option Level)) {op : Instr} (hpub : op.isPublic = true)
    (hvalid : requestError op = none) :
    lcdWordsSeen L shifted (opEvents op) = (encode op).lcdWords.map some := by
  obtain ⟨its, hits, -⟩ := items_eq_mode_cons hpub
  rw [opEvents_of_valid hvalid, ← expansionSpellsTheTableWords op false hpub hvalid, hits, lcdWordsSeen_mode_cons]

/-- Settles O47: one word per byte, at the mode level the operation begins by writing. -/
theorem theLcdReceivesTheOperationsWords : Obligations.TheLcdReceivesTheOperationsWords := by
  unfold Obligations.TheLcdReceivesTheOperationsWords
  exact fun L shifted op hpub hvalid => lcdWordsSeen_opEvents L shifted hpub hvalid

/-! An operation cut short. -/

/-- An event other than the fall of the enable line delivers no word. -/
theorem lcdWordsSeen_cons_of_ne {e : Event} (h : e ≠ .set .lcdClock false) (L : Latches)
    (shifted : List (Option Level)) (es : List Event) :
    ∃ shifted', lcdWordsSeen L shifted (e :: es) = lcdWordsSeen (L.apply e) shifted' es := by
  cases e with
  | delay => exact ⟨_, rfl⟩
  | set line v =>
    cases line with
    | registerData => exact ⟨_, rfl⟩
    | registerClock => cases v <;> exact ⟨_, rfl⟩
    | registerClear => exact ⟨_, rfl⟩
    | lcdClock =>
      cases v with
      | false => exact absurd rfl h
      | true => exact ⟨_, rfl⟩
    | lcdModeSelect => exact ⟨_, rfl⟩

/-- The LCD receives at most one word per fall of the enable line. -/
theorem lcdWordsSeen_length_le (es : List Event) :
    ∀ (L : Latches) (shifted : List (Option Level)),
      (lcdWordsSeen L shifted es).length ≤ es.count (.set .lcdClock false) := by
  induction es with
  | nil => exact fun _ _ => Nat.le_refl _
  | cons e es ih =>
    intro L shifted
    by_cases hfall : e = .set .lcdClock false
    · subst hfall
      rw [lcdWordsSeen, List.count_cons_self]
      split
      · exact Nat.succ_le_succ (ih _ _)
      · exact (ih _ _).trans (Nat.le_succ _)
    · obtain ⟨shifted', hsilent⟩ := lcdWordsSeen_cons_of_ne hfall L shifted es
      rw [List.count_cons_of_ne hfall, hsilent]
      exact ih _ _

/-- As many enable pulses as words. -/
theorem count_fall_opEvents {op : Instr} (hpub : op.isPublic = true) (hvalid : requestError op = none) :
    (opEvents op).count (.set .lcdClock false) = (encode op).lcdWords.length := by
  rw [opEvents_of_valid hvalid, items_eq_selections hpub,
    count_itemEvents_selections (k := 1) _ fun _ => rfl, ← selections_words_eq_encode hpub hvalid, List.length_map]
  simp [setModeSteps]

/-- Cut short, an operation delivers one word per enable pulse it completes: it cannot deliver more, nor can the rest
of its trace, and together they deliver as many as there are pulses. -/
theorem lcdWordsSeen_take_opEvents (L : Latches) (shifted : List (Option Level)) {op : Instr} (n : Nat)
    (hpub : op.isPublic = true) (hvalid : requestError op = none) :
    lcdWordsSeen L shifted ((opEvents op).take n) =
      ((encode op).lcdWords.take (((opEvents op).take n).count (.set .lcdClock false))).map some := by
  obtain ⟨L', shifted', happend⟩ := lcdWordsSeen_append ((opEvents op).take n) L shifted
  have hwhole := lcdWordsSeen_opEvents L shifted hpub hvalid
  rw [← List.take_append_drop n (opEvents op), happend] at hwhole
  have hpulses := count_fall_opEvents hpub hvalid
  rw [← List.take_append_drop n (opEvents op), List.count_append] at hpulses
  have htotal := congrArg List.length hwhole
  rw [List.length_append, List.length_map] at htotal
  have htaken := lcdWordsSeen_length_le ((opEvents op).take n) L shifted
  have hrest := lcdWordsSeen_length_le ((opEvents op).drop n) L' shifted'
  have hlength : (lcdWordsSeen L shifted ((opEvents op).take n)).length =
      ((opEvents op).take n).count (.set .lcdClock false) := by omega
  rw [List.map_take, ← hwhole, ← hlength, List.take_left]

/-- Settles O50: the cut trace delivers the words of its completed pulses, and the next operation all of its own,
whatever the cut left on the lines and in the register. -/
theorem aCutOperationDeliversItsCompletedPulses : Obligations.ACutOperationDeliversItsCompletedPulses := by
  unfold Obligations.ACutOperationDeliversItsCompletedPulses
  intro L shifted op n hpub hvalid
  have hcut := lcdWordsSeen_take_opEvents L shifted n hpub hvalid
  refine ⟨hcut, fun following hpub' hvalid' => ?_⟩
  obtain ⟨L', shifted', happend⟩ := lcdWordsSeen_append ((opEvents op).take n) L shifted
  rw [happend, hcut, lcdWordsSeen_opEvents L' shifted' hpub' hvalid']

/-! The mode policy. -/

/-- The policies differ in one selection at most: the three of `construct` have one byte each, so there they agree. -/
theorem itemsUnder_eq_or_selectAndSend {op : Instr} (h : op.isPublic = true) :
    (∀ policy, itemsUnder policy op = items op) ∨
      ∃ bs, ∀ policy, itemsUnder policy op = selectAndSend policy (modeOf op) bs := by
  cases op with
  | shiftByte b => cases h
  | clearRegister => cases h
  | setMode m => cases h
  | construct => exact .inl fun policy => by cases policy <;> rfl
  | _ => exact .inr ⟨_, fun _ => rfl⟩

theorem selectAndSend_each_cons (m : Level) (b : Byte) (bs : List Byte) :
    selectAndSend .beforeEveryByte m (b :: bs) = .mode m :: .byte b :: selectAndSend .beforeEveryByte m bs := rfl

/-- An event that is no rise of a clock line is no pulse. -/
theorem levelsAtPulses_cons_of_ne (L : Latches) {e : Event} (es : List Event) (hclock : e ≠ .set .registerClock true)
    (henable : e ≠ .set .lcdClock true) : levelsAtPulses L (e :: es) = levelsAtPulses (L.apply e) es := by
  rw [levelsAtPulses]
  · exact hclock
  · exact henable

theorem levelsAtPulses_append (es fs : List Event) :
    ∀ L : Latches, levelsAtPulses L (es ++ fs) = levelsAtPulses L es ++ levelsAtPulses (L.after es) fs := by
  induction es with
  | nil => exact fun L => rfl
  | cons e es ih =>
    intro L
    by_cases hclock : e = .set .registerClock true
    · subst hclock
      exact congrArg (_ :: ·) (ih _)
    · by_cases henable : e = .set .lcdClock true
      · subst henable
        exact congrArg (_ :: ·) (ih _)
      · simp only [List.cons_append, levelsAtPulses_cons_of_ne L _ hclock henable, ih, Latches.after_cons]

/-- A byte leaves the mode line alone, so writing the selected level again before the next one changes no latch. -/
theorem levelsAtPulses_selectAndSend (policy : RsWritePolicy) (m : Level) (bs : List Byte) :
    ∀ L : Latches, levelsAtPulses L (itemEvents (selectAndSend policy m bs)) =
      levelsAtPulses (L.set .lcdModeSelect m) (itemEvents (bs.map .byte)) := by
  cases policy with
  | oncePerOperation => exact fun _ => rfl
  | beforeEveryByte =>
    induction bs with
    | nil => exact fun _ => rfl
    | cons b bs ih =>
      intro L
      have hset : levelsAtPulses L (itemEvents (selectAndSend .beforeEveryByte m (b :: bs))) =
          levelsAtPulses (L.set .lcdModeSelect m)
            (shiftByteSteps b ++ itemEvents (selectAndSend .beforeEveryByte m bs)) := by
        rw [selectAndSend_each_cons, itemEvents_cons, itemEvents_cons]
        rfl
      have hrewrite : ((L.set .lcdModeSelect m).after (shiftByteSteps b)).set .lcdModeSelect m =
          (L.set .lcdModeSelect m).after (shiftByteSteps b) := by rw [after_shiftByteSteps]; rfl
      rw [hset, levelsAtPulses_append, ih, hrewrite, List.map_cons, itemEvents_cons, Item.steps_byte,
        levelsAtPulses_append]

theorem itemWords_selectAndSend (policy : RsWritePolicy) (m : Level) (bs : List Byte) :
    ∀ m', itemWords m' (selectAndSend policy m bs) = bs.map (lcdWord m) := by
  cases policy with
  | oncePerOperation =>
    intro m'
    rw [selectAndSend_once, itemWords, ← List.append_nil (bs.map Item.byte), itemWords_bytes_append]
    exact List.append_nil _
  | beforeEveryByte =>
    induction bs with
    | nil => exact fun _ => rfl
    | cons b bs ih => exact fun _ => congrArg (lcdWord m b :: ·) (ih m)

theorem lcdWordsSeen_selectAndSend (policy : RsWritePolicy) (m : Level) (bs : List Byte) (L : Latches)
    (shifted : List (Option Level)) :
    lcdWordsSeen L shifted (itemEvents (selectAndSend policy m bs)) = (bs.map (lcdWord m)).map some := by
  rw [← itemWords_selectAndSend policy m bs m]
  cases policy with
  | oncePerOperation => exact lcdWordsSeen_mode_cons L shifted m m _
  | beforeEveryByte =>
    cases bs with
    | nil => rfl
    | cons b bs => exact lcdWordsSeen_mode_cons L shifted m m _

/-- An event other than a write of the mode line. -/
def Event.leavesMode (e : Event) : Bool :=
  decide (e ≠ .set .lcdModeSelect true ∧ e ≠ .set .lcdModeSelect false)

theorem leavesMode_mode (m : Level) : Event.leavesMode (.set .lcdModeSelect m) = false := by
  revert m; decide

theorem filter_leavesMode_selectAndSend (policy : RsWritePolicy) (m : Level) (bs : List Byte) :
    (itemEvents (selectAndSend policy m bs)).filter Event.leavesMode =
      (itemEvents (bs.map .byte)).filter Event.leavesMode := by
  cases policy with
  | oncePerOperation =>
    rw [selectAndSend_once, itemEvents_cons, List.filter_append, Item.steps_mode, List.filter_cons, leavesMode_mode]
    rfl
  | beforeEveryByte =>
    induction bs with
    | nil => rfl
    | cons b bs ih =>
      rw [selectAndSend_each_cons, itemEvents_cons, itemEvents_cons, List.filter_append, List.filter_append, ih,
        Item.steps_mode, List.filter_cons, leavesMode_mode, List.map_cons, itemEvents_cons, List.filter_append]
      rfl

/-- Settles O48: what is read of a selection and its bytes under a policy is said by the bytes alone. -/
theorem theModePolicyChangesOnlyModeWrites : Obligations.TheModePolicyChangesOnlyModeWrites := by
  unfold Obligations.TheModePolicyChangesOnlyModeWrites
  intro op L shifted hpub
  obtain hsame | ⟨bs, hbs⟩ := itemsUnder_eq_or_selectAndSend hpub
  · rw [hsame, hsame]
    exact ⟨rfl, rfl, rfl⟩
  · rw [hbs, hbs]
    refine ⟨?levels, ?words, ?others⟩
    case levels => rw [levelsAtPulses_selectAndSend, levelsAtPulses_selectAndSend]
    case words => rw [lcdWordsSeen_selectAndSend, lcdWordsSeen_selectAndSend]
    case others =>
      exact (filter_leavesMode_selectAndSend _ _ bs).trans (filter_leavesMode_selectAndSend _ _ bs).symm

end Sys2Proof.Machine
end

section
/-! PROOFS. The position of the sequencer and the events performed there (10_state.md R24), and the invariant that every
step keeps (10_state.md R20 to R25). -/

namespace Sys2Proof.Machine

/-! The step with each of the host's actions. -/

theorem step_pass {s : State} {rest : List HostAction} (hh : s.host = .pass :: rest) :
    step s = blockStep { s with host := rest } := by
  simp only [step, hostStep, hh]

theorem step_request_busy {s : State} {req : Instr} {its : List Item} {i j : Nat} {op : Instr} {rest : List HostAction}
    (hs : s.seq = .run req its i j) (hh : s.host = .request op :: rest) : step s = .refused .requestWhileBusy := by
  simp only [step, hostStep, hh, hs]

/-- An idle block runs the request presented to it, at once or held until now. -/
theorem step_request_idle {s : State} {op : Instr} {rest : List HostAction} (hs : s.seq = .idle)
    (hh : s.host = .request op :: rest ∨ s.host = .requestWhenIdle op :: rest) :
    step s = exec op { s with host := rest } := by
  obtain hh | hh := hh
  · simp only [step, hostStep, hh, hs]
  · simp only [step, hostStep, hh, hs]

/-! Positions. -/

/-- `RUN(i, j)` is a position of these items (R24). -/
def IsPosition (its : List Item) (i j : Nat) : Prop := ∃ item, its[i]? = some item ∧ j < item.steps.length

@[simp] theorem performed_zero (its : List Item) : performed its 0 0 = [] := rfl

/-- Before its item: everything of the items before; within it: its micro-steps up to `j`. -/
theorem performed_of_item {its : List Item} {i : Nat} {item : Item} (hi : its[i]? = some item) (j : Nat) :
    performed its i j = itemEvents (its.take i) ++ item.steps.take j := by
  rw [performed, hi, Option.toList_some, itemEvents_cons, itemEvents_nil, List.append_nil]

/-- A micro-step appends its event to the events performed. -/
theorem performed_succ {its : List Item} {i j : Nat} {item : Item} {e : Event} (hi : its[i]? = some item)
    (he : item.steps[j]? = some e) : performed its i (j + 1) = performed its i j ++ [e] := by
  rw [performed_of_item hi, performed_of_item hi, List.take_add_one, he, Option.toList_some, List.append_assoc]

/-- The end of an item is the start of the next. -/
theorem performed_next_item {its : List Item} {i : Nat} {item : Item} (hi : its[i]? = some item) :
    performed its i item.steps.length = performed its (i + 1) 0 := by
  rw [performed_of_item hi, List.take_length, performed, List.take_zero, List.append_nil, List.take_add_one, hi,
    Option.toList_some, itemEvents_append, itemEvents_cons, itemEvents_nil, List.append_nil]

/-- After the last item everything is performed. -/
theorem performed_of_length_le {its : List Item} {i : Nat} (h : its.length ≤ i) : performed its i 0 = itemEvents its := by
  rw [performed, List.take_zero, List.append_nil, List.take_of_length_le h]

/-- The events performed and the event the position names are the first events of the operation. -/
theorem performed_append_prefix {its : List Item} {i j : Nat} {item : Item} {e : Event} (hi : its[i]? = some item)
    (he : item.steps[j]? = some e) : performed its i j ++ [e] <+: itemEvents its := by
  obtain ⟨hlt, hitem⟩ := List.getElem?_eq_some_iff.mp hi
  rw [← performed_succ hi he, performed_of_item hi]
  conv_rhs => rw [← List.take_append_drop i its, List.drop_eq_getElem_cons hlt, hitem, itemEvents_append, itemEvents_cons]
  exact (List.prefix_append_right_inj _).mpr ((List.take_prefix _ _).trans (List.prefix_append _ _))

/-- Where a micro-step leaves the sequencer: at the next micro-step of the item or the start of the next item, with the
event added to those performed and no report, or idle with everything performed and `Done` reported (R24). -/
theorem afterMicroStep_cases {its : List Item} {i j : Nat} {item : Item} {e : Event} (s : State) (req : Instr)
    (hi : its[i]? = some item) (he : item.steps[j]? = some e) :
    (∃ i' j', (afterMicroStep s req its i j item.steps.length e).seq = .run req its i' j' ∧ IsPosition its i' j' ∧
      (i' = i ∧ j' = j + 1 ∨ j' = 0) ∧ performed its i' j' = performed its i j ++ [e] ∧
      (afterMicroStep s req its i j item.steps.length e).reports = s.reports) ∨
    ((afterMicroStep s req its i j item.steps.length e).seq = .idle ∧ itemEvents its = performed its i j ++ [e] ∧
      (afterMicroStep s req its i j item.steps.length e).reports = s.reports ++ [.done]) := by
  have hsucc := performed_succ hi he
  by_cases hj : j + 1 < item.steps.length
  · refine .inl ⟨i, j + 1, ?_, ⟨item, hi, hj⟩, .inl ⟨rfl, rfl⟩, hsucc, ?_⟩
    · rw [afterMicroStep, if_pos hj]
    · simp [afterMicroStep, hj]
  · have hend : j + 1 = item.steps.length := by
      have := (List.getElem?_eq_some_iff.mp he).1
      omega
    rw [hend, performed_next_item hi] at hsucc
    by_cases hlast : i + 1 < its.length
    · refine .inl ⟨i + 1, 0, ?_, ⟨_, List.getElem?_eq_getElem hlast, Item.steps_length_pos _⟩, .inr rfl, hsucc, ?_⟩
      · rw [afterMicroStep, if_neg hj, if_pos hlast]
      · simp [afterMicroStep, hlast]
    · refine .inr ⟨?_, ?_, ?_⟩
      · rw [afterMicroStep, if_neg hj, if_neg hlast]
      · rw [← hsucc, performed_of_length_le (by omega)]
      · simp [afterMicroStep, hj, hlast]

/-- Everything a public operation can do when it answers: the block was idle, and it raised its error or was accepted. -/
theorem exec_public_next {op : Instr} {s t : State} (hpub : op.isPublic = true) (h : exec op s = .next t) :
    s.seq = .idle ∧ ((∃ r, requestError op = some r ∧ t = { s with reports := s.reports ++ [r] }) ∨
      (requestError op = none ∧ t = { s with seq := .run op (items op) 0 0 })) := by
  rw [exec_public s hpub] at h
  cases hs : s.seq with
  | idle =>
    refine ⟨rfl, ?_⟩
    cases hvalid : requestError op with
    | some r =>
      simp only [hvalid, raise_idle r hs] at h
      cases h
      exact .inl ⟨r, rfl, by rw [← hs]⟩
    | none =>
      simp only [hvalid, accept_idle op hs] at h
      cases h
      exact .inr ⟨rfl, rfl⟩
  | run req its i j =>
    cases hvalid : requestError op with
    | some r => simp only [hvalid, raise_busy r hs] at h; cases h
    | none => simp only [hvalid, accept_busy op hs] at h; cases h

/-! The invariant. -/

theorem blockInv_of_idle {s : State} (hs : s.seq = .idle) : BlockInv s := by simp only [BlockInv, hs]

theorem blockInv_run_iff {s : State} {req : Instr} {its : List Item} {i j : Nat} (hs : s.seq = .run req its i j) :
    BlockInv s ↔ RunInv s req its i j := by simp only [BlockInv, hs]

/-- The host is no part of the invariant. -/
theorem BlockInv.withHost {s : State} (h : BlockInv s) (host : List HostAction) : BlockInv { s with host := host } := by
  obtain ⟨lines, seq, trace, reports, _⟩ := s
  cases seq with
  | idle => exact blockInv_of_idle rfl
  | run req its i j =>
    obtain ⟨hreq, hvalid, hits, hpos, htrace, hlines⟩ := (blockInv_run_iff rfl).mp h
    exact (blockInv_run_iff rfl).mpr ⟨hreq, hvalid, hits, hpos, htrace, hlines⟩

theorem Latches.agrees_nil (L : Latches) : L.agrees [] := fun line _ h => by cases line <;> cases h

/-- An event moves the levels last written and the latches alike. -/
theorem Latches.agrees_apply {L : Latches} {es : List Event} (h : L.agrees es) (e : Event) :
    (L.apply e).agrees (es ++ [e]) := by
  intro line v hv
  rw [Latches.after_append, Latches.after_cons, Latches.after_nil] at hv
  cases e with
  | delay => exact h line v hv
  | set written w =>
    by_cases hline : line = written
    · subst hline
      rw [Latches.apply_set, Latches.get_set_same] at hv ⊢
      exact hv
    · rw [Latches.apply_set, Latches.get_set_of_ne _ _ hline] at hv ⊢
      exact h line v hv

/-- An accepted request starts at the first item, its mode selection (R25). -/
theorem runInv_accepted {op : Instr} (s : State) (hpub : op.isPublic = true) (hvalid : requestError op = none) :
    RunInv s op (items op) 0 0 := by
  obtain ⟨its, hits, -⟩ := items_eq_mode_cons hpub
  exact ⟨hpub, hvalid, rfl, ⟨.mode (modeOf op), by rw [hits]; rfl, Nat.one_pos⟩, List.nil_suffix,
    s.lines.agrees_nil⟩

/-- A request, whatever becomes of it, leaves the invariant. -/
theorem blockInv_of_exec_public {op : Instr} {s t : State} (hpub : op.isPublic = true) (h : exec op s = .next t) :
    BlockInv t := by
  obtain ⟨hs, ⟨r, -, rfl⟩ | ⟨hvalid, rfl⟩⟩ := exec_public_next hpub h
  · exact blockInv_of_idle hs
  · exact (blockInv_run_iff rfl).mpr (runInv_accepted _ hpub hvalid)

/-- The micro-step at the position leaves the invariant. -/
theorem RunInv.afterMicroStep {s : State} {req : Instr} {its : List Item} {i j : Nat} {item : Item} {e : Event}
    (h : RunInv s req its i j) (hi : its[i]? = some item) (he : item.steps[j]? = some e) :
    BlockInv (afterMicroStep s req its i j item.steps.length e) := by
  obtain ⟨i', j', hseq, hpos, -, hperformed, -⟩ | ⟨hseq, -, -⟩ := afterMicroStep_cases s req hi he
  · refine (blockInv_run_iff hseq).mpr ⟨h.requestable, h.validated, h.expansion, hpos, ?traced, ?latched⟩
    case traced =>
      rw [hperformed]
      obtain ⟨before, htrace⟩ := h.traced
      exact ⟨before, by rw [← List.append_assoc, htrace]; rfl⟩
    case latched =>
      rw [hperformed]
      exact Latches.agrees_apply h.latched e
  · exact blockInv_of_idle hseq

theorem blockInv_of_blockStep {s t : State} (hinv : BlockInv s) (h : blockStep s = .next t) : BlockInv t := by
  obtain ⟨-, rfl⟩ | ⟨req, its, i, j, item, e, hs, hi, he, rfl⟩ := blockStep_next h
  · exact hinv
  · exact ((blockInv_run_iff hs).mp hinv).afterMicroStep hi he

theorem blockInv_of_step {s t : State} (hinv : BlockInv s) (h : step s = .next t) : BlockInv t := by
  obtain ⟨rest, -, rfl⟩ | ⟨op, rest, -, -, hpub, hexec⟩ | ⟨host, hblock, -⟩ := step_next h
  · exact blockInv_of_idle rfl
  · exact blockInv_of_exec_public hpub hexec
  · exact blockInv_of_blockStep (hinv.withHost host) hblock

/-- Settles O41: a reset ends in an idle block, a request is accepted at its first item, and a micro-step adds its event
to all that the invariant speaks of. -/
theorem everyStepKeepsTheInvariant : Obligations.EveryStepKeepsTheInvariant := by
  unfold Obligations.EveryStepKeepsTheInvariant
  exact fun s t => blockInv_of_step

/-- Settles O40. -/
theorem resetMeetsTheInvariant : Obligations.ResetMeetsTheInvariant := by
  unfold Obligations.ResetMeetsTheInvariant
  exact blockInv_of_idle rfl

/-! Progress. -/

theorem IsPosition.exists_event {its : List Item} {i j : Nat} (h : IsPosition its i j) :
    ∃ item e, its[i]? = some item ∧ item.steps[j]? = some e := by
  obtain ⟨item, hi, hj⟩ := h
  exact ⟨item, _, hi, List.getElem?_eq_getElem hj⟩

/-- From a state that meets the invariant the sequencer's step answers, and leaves the host. -/
theorem exists_blockStep {s : State} (h : BlockInv s) : ∃ t, blockStep s = .next t ∧ t.host = s.host := by
  cases hs : s.seq with
  | idle => exact ⟨s, blockStep_idle hs, rfl⟩
  | run req its i j =>
    obtain ⟨item, e, hi, he⟩ := IsPosition.exists_event ((blockInv_run_iff hs).mp h).position
    exact ⟨_, blockStep_run hs hi he, rfl⟩

/-- A public operation presented to an idle block is answered, and the host is left. -/
theorem exists_exec_public {op : Instr} {s : State} (hpub : op.isPublic = true) (hs : s.seq = .idle) :
    ∃ t, exec op s = .next t ∧ t.host = s.host := by
  rw [exec_public s hpub]
  cases requestError op with
  | some r => exact ⟨_, raise_idle r hs, rfl⟩
  | none => exact ⟨_, accept_idle op hs, rfl⟩

theorem exists_step_of_dutiful {s : State} (hinv : BlockInv s) (hduty : s.hostDutiful = true) :
    ∃ t, step s = .next t ∧ t.hostDutiful = true := by
  cases hh : s.host with
  | nil =>
    obtain ⟨t, ht, hhost⟩ := exists_blockStep hinv
    exact ⟨t, (step_quiet hh).trans ht, by rw [State.hostDutiful, hhost]; exact hduty⟩
  | cons action rest =>
    have hboth := hduty
    rw [State.hostDutiful, hh, List.all_cons, Bool.and_eq_true] at hboth
    obtain ⟨haction, hrest⟩ := hboth
    cases action with
    | reset => exact ⟨_, hostStep_reset _ hh, hrest⟩
    | request op => cases haction
    | pass =>
      obtain ⟨t, ht, hhost⟩ := exists_blockStep (hinv.withHost rest)
      exact ⟨t, (step_pass hh).trans ht, by rw [State.hostDutiful, hhost]; exact hrest⟩
    | requestWhenIdle op =>
      cases hs : s.seq with
      | idle =>
        obtain ⟨t, ht, hhost⟩ := exists_exec_public (s := { s with host := rest }) haction hs
        exact ⟨t, (step_request_idle hs (.inr hh)).trans ht, by rw [State.hostDutiful, hhost]; exact hrest⟩
      | run req its i j =>
        obtain ⟨t, ht, hhost⟩ := exists_blockStep hinv
        exact ⟨t, (step_waiting hs hh).trans ht, by rw [State.hostDutiful, hhost]; exact hduty⟩

/-- Settles O44: each dutiful action has a step, by the position of the invariant where the block is busy. -/
theorem aDutifulHostNeverStopsTheBlock : Obligations.ADutifulHostNeverStopsTheBlock := by
  unfold Obligations.ADutifulHostNeverStopsTheBlock
  intro s hinv hduty
  obtain ⟨t, hstep, hduty'⟩ := exists_step_of_dutiful hinv hduty
  exact ⟨t, hstep, blockInv_of_step hinv hstep, hduty'⟩

end Sys2Proof.Machine
end

section
/-! PROOFS. The levels of the lines while a byte is sent (40_register_shifter.md R107, R108; 70_reset_and_hazards.md
R188), from what the byte's events last wrote. -/

namespace Sys2Proof.Machine

/-! What a trace last wrote to a line. -/

/-- Whether the event leaves the line alone. -/
def Event.leaves (line : Line) : Event → Bool
  | .set written _ => decide (written ≠ line)
  | .delay => true

theorem Latches.get_apply_of_leaves (L : Latches) {line : Line} {e : Event} (h : e.leaves line = true) :
    (L.apply e).get line = L.get line := by
  cases e with
  | delay => rfl
  | set written v => exact L.get_set_of_ne v (Ne.symm (of_decide_eq_true h))

theorem Latches.get_after_of_leaves {line : Line} {es : List Event} (h : es.all (Event.leaves line) = true) :
    ∀ L : Latches, (L.after es).get line = L.get line := by
  induction es with
  | nil => exact fun _ => rfl
  | cons e es ih =>
    rw [List.all_cons, Bool.and_eq_true] at h
    intro L
    rw [Latches.after_cons, ih h.2, L.get_apply_of_leaves h.1]

/-- After micro-step `k` writes the line and the ones up to `hi` leave it, the line holds that level at each position
from `k + 1` to `hi`. -/
theorem Latches.get_after_take {line : Line} {v : Level} {es : List Event} {k hi j : Nat} (L : Latches)
    (hk : es[k]? = some (.set line v)) (hleaves : ((es.take hi).drop (k + 1)).all (Event.leaves line) = true)
    (hkj : k < j) (hj : j ≤ hi) : (L.after (es.take j)).get line = some v := by
  have hsplit : es.take j = es.take k ++ .set line v :: (es.take j).drop (k + 1) := by
    have hfirst : (es.take j).take (k + 1) = es.take k ++ [.set line v] := by
      rw [List.take_take, Nat.min_eq_left hkj, List.take_add_one, hk, Option.toList_some]
    conv_lhs => rw [← List.take_append_drop (k + 1) (es.take j), hfirst, List.append_assoc]
    rfl
  have hrest : ((es.take j).drop (k + 1)).all (Event.leaves line) = true := by
    have hpre : (es.take j).drop (k + 1) <+: (es.take hi).drop (k + 1) := (List.take_prefix_take_left hj).drop _
    exact List.all_eq_true.mpr fun e he => List.all_eq_true.mp hleaves e (hpre.mem he)
  rw [hsplit, Latches.after_append, Latches.after_cons, Latches.get_after_of_leaves hrest, Latches.apply_set,
    Latches.get_set_same]

/-! The lines. -/

/-- The level the byte's micro-step `k` writes, at each position of the byte until it is written again. -/
theorem RunInv.get_of_written {s : State} {req : Instr} {its : List Item} {i j k hi : Nat} {b : Byte} {line : Line}
    {v : Level} (h : RunInv s req its i j) (hb : its[i]? = some (.byte b))
    (hk : (shiftByteSteps b)[k]? = some (.set line v))
    (hleaves : (((shiftByteSteps b).take hi).drop (k + 1)).all (Event.leaves line) = true) (hkj : k < j) (hj : j ≤ hi) :
    s.lines.get line = some v := by
  refine h.latched line v ?_
  rw [performed_of_item hb, Latches.after_append]
  exact Latches.get_after_take _ hk hleaves hkj hj

/-- No byte writes the mode line (10_state.md R22). -/
theorem leaves_mode_of_mem_byte {b : Byte} {e : Event} (he : e ∈ shiftByteSteps b) : e.leaves .lcdModeSelect = true :=
  List.all_eq_true.mp (show (shiftByteSteps b).all (Event.leaves .lcdModeSelect) = true from rfl) e he

/-- Items that select no other mode level leave the mode line at the level it has. -/
theorem get_mode_after_itemEvents {its : List Item} {m : Level} (h : ∀ m', Item.mode m' ∈ its → m' = m) :
    ∀ {L : Latches}, L.get .lcdModeSelect = some m → (L.after (itemEvents its)).get .lcdModeSelect = some m := by
  induction its with
  | nil => exact fun hL => hL
  | cons item its ih =>
    intro L hL
    rw [itemEvents_cons, Latches.after_append]
    refine ih (fun m' hm' => h m' (List.mem_cons_of_mem _ hm')) ?_
    cases item with
    | mode m' => rw [h m' List.mem_cons_self]; rfl
    | byte b => exact hL

/-- An operation that has come to a byte has selected its mode, and no byte writes the mode line. -/
theorem RunInv.get_mode {s : State} {req : Instr} {its : List Item} {i j : Nat} {b : Byte} (h : RunInv s req its i j)
    (hb : its[i]? = some (.byte b)) : s.lines.get .lcdModeSelect = some (modeOf req) := by
  obtain ⟨tail, hitems, htail⟩ := items_eq_mode_cons h.requestable
  have hits : its = .mode (modeOf req) :: tail := h.expansion.trans hitems
  subst hits
  cases i with
  | zero => cases hb
  | succ i =>
    have hbyte : ((shiftByteSteps b).take j).all (Event.leaves .lcdModeSelect) = true :=
      List.all_eq_true.mpr fun e he => leaves_mode_of_mem_byte (List.mem_of_mem_take he)
    refine h.latched _ _ ?_
    rw [performed_of_item hb, Latches.after_append, Item.steps_byte, Latches.get_after_of_leaves hbyte,
      List.take_succ_cons, itemEvents_cons, Latches.after_append]
    exact get_mode_after_itemEvents (fun m' hm' => htail m' (List.mem_of_mem_take hm')) rfl

/-- Settles O42: each level is the one its micro-step of R105 writes, until that line is written again. -/
theorem levelsWhileAByteIsSent : Obligations.LevelsWhileAByteIsSent := by
  unfold Obligations.LevelsWhileAByteIsSent
  intro s req its i j b hinv hs hb
  have h := (blockInv_run_iff hs).mp hinv
  have hj : j ≤ 64 := by
    obtain ⟨item, hi, hlt⟩ := h.position
    cases hb.symm.trans hi
    exact hlt.le
  have hdata : ∀ k, k < 8 → (shiftByteSteps b)[34 + 3 * k]? = some (.set .registerData (b.getLsbD k)) ∧
      (((shiftByteSteps b).take (37 + 3 * k)).drop (35 + 3 * k)).all (Event.leaves .registerData) = true := by
    intro k hk
    interval_cases k <;> exact ⟨rfl, rfl⟩
  refine ⟨fun hlo hhi => ?clearLow, fun hlo => ?clearHigh, fun k hk hlo hhi => ?dataBit, fun hlo => ?lastBit,
    fun hlo => ?clockLow, fun hpos => ?enableHigh, fun hpos => ?enableLow, h.get_mode hb⟩
  case clearLow => exact h.get_of_written (k := 0) (hi := 31) (line := .registerClear) hb rfl rfl (by omega) hhi
  case clearHigh => exact h.get_of_written (k := 31) (hi := 64) (line := .registerClear) hb rfl rfl (by omega) hj
  case dataBit =>
    exact h.get_of_written (k := 34 + 3 * k) (line := .registerData) hb (hdata k hk).1
      ((Nat.add_right_comm 34 (3 * k) 1).symm ▸ (hdata k hk).2) (by omega) hhi
  case lastBit => exact h.get_of_written (k := 55) (hi := 64) (line := .registerData) hb rfl rfl (by omega) hj
  case clockLow => exact h.get_of_written (k := 59) (hi := 64) (line := .registerClock) hb rfl rfl (by omega) hj
  case enableHigh =>
    exact h.get_of_written (k := 61) (hi := 62) (line := .lcdClock) hb rfl rfl (by omega) (by omega)
  case enableLow =>
    exact h.get_of_written (k := 62) (hi := 64) (line := .lcdClock) hb rfl rfl (by omega) hj

/-! The enable line. -/

theorem inEnablePulse_mode {req : Instr} {its : List Item} {i : Nat} {m : Level} (h : its[i]? = some (.mode m))
    (j : Nat) : inEnablePulse (.run req its i j) = false := by simp only [inEnablePulse, h]

theorem inEnablePulse_byte {req : Instr} {its : List Item} {i : Nat} {b : Byte} (h : its[i]? = some (.byte b))
    (j : Nat) : inEnablePulse (.run req its i j) = decide (j = 62) := by simp only [inEnablePulse, h]

/-- No item begins within its enable pulse. -/
theorem inEnablePulse_start (req : Instr) (its : List Item) (i : Nat) : inEnablePulse (.run req its i 0) = false := by
  cases hi : its[i]? with
  | none => simp only [inEnablePulse, hi]
  | some item =>
    cases item with
    | mode m => exact inEnablePulse_mode hi 0
    | byte b => exact inEnablePulse_byte hi 0

/-- Of the micro-steps of a byte only 61 and 62 write the enable line, to 1 and to 0 (R105). -/
theorem lcdClock_apply_byte {b : Byte} {j : Nat} {e : Event} (L : Latches) (he : (shiftByteSteps b)[j]? = some e) :
    (L.apply e).lcdClock = if j = 61 then some true else if j = 62 then some false else L.lcdClock := by
  have hleaves : ((shiftByteSteps b).take 61 ++ (shiftByteSteps b).drop 63).all (Event.leaves .lcdClock) = true := rfl
  have hother : j < 61 ∨ 62 < j → (L.apply e).lcdClock = L.lcdClock := fun hj => by
    refine L.get_apply_of_leaves (line := .lcdClock) (List.all_eq_true.mp hleaves e (List.mem_append.mpr ?_))
    obtain hj | hj := hj
    · exact .inl (List.mem_of_getElem? ((List.getElem?_take_of_lt hj).trans he))
    · refine .inr (List.mem_of_getElem? (i := j - 63) ?_)
      rw [List.getElem?_drop, Nat.add_sub_cancel' hj, he]
  by_cases h61 : j = 61
  · subst h61; cases he; rfl
  · by_cases h62 : j = 62
    · subst h62; cases he; rfl
    · rw [if_neg h61, if_neg h62, hother (by omega)]

/-- A micro-step keeps the enable line high exactly within the pulse. -/
theorem enable_afterMicroStep {s : State} {req : Instr} {its : List Item} {i j : Nat} {item : Item} {e : Event}
    (hi : its[i]? = some item) (he : item.steps[j]? = some e)
    (h : s.lines.lcdClock = some (inEnablePulse (.run req its i j))) :
    (afterMicroStep s req its i j item.steps.length e).lines.lcdClock =
      some (inEnablePulse (afterMicroStep s req its i j item.steps.length e).seq) := by
  have hseq : inEnablePulse (afterMicroStep s req its i j item.steps.length e).seq =
      (decide (j + 1 < item.steps.length) && inEnablePulse (.run req its i (j + 1))) := by
    rw [afterMicroStep]
    by_cases hj : j + 1 < item.steps.length
    · rw [if_pos hj, decide_eq_true hj, Bool.true_and]
    · rw [if_neg hj, decide_eq_false hj, Bool.false_and]
      split
      · exact inEnablePulse_start _ _ _
      · rfl
  rw [hseq]
  cases item with
  | mode m =>
    obtain ⟨rfl, hm⟩ : j = 0 ∧ e = .set .lcdModeSelect m := by
      cases j with
      | zero => exact ⟨rfl, (Option.some.inj he).symm⟩
      | succ j => cases he
    rw [inEnablePulse_mode hi] at h ⊢
    rw [hm, Bool.and_false]
    exact h
  | byte b =>
    have hlast : j < 64 := (List.getElem?_eq_some_iff.mp he).1
    have hline := lcdClock_apply_byte s.lines he
    rw [inEnablePulse_byte hi] at h ⊢
    refine hline.trans ?_
    rw [h, Item.steps_byte, shiftByteSteps_length]
    split_ifs with h61 h62
    · subst h61; rfl
    · subst h62; rfl
    · simp [h61, h62]

/-- Settles O43: acceptance writes no line and starts at no pulse, and each micro-step keeps the relation. -/
theorem enableLineIsHighOnlyInItsPulse : Obligations.EnableLineIsHighOnlyInItsPulse := by
  unfold Obligations.EnableLineIsHighOnlyInItsPulse
  intro s t _ hreset hstep h
  obtain ⟨rest, hh, -⟩ | ⟨op, rest, -, hs, hpub, hexec⟩ | ⟨host, hblock, -⟩ := step_next hstep
  · exact absurd hh (hreset rest)
  · rw [hs] at h
    obtain ⟨-, ⟨r, -, rfl⟩ | ⟨-, rfl⟩⟩ := exec_public_next hpub hexec
    · rw [hs]; exact h
    · rw [inEnablePulse_start]; exact h
  · obtain ⟨-, rfl⟩ | ⟨req, its, i, j, item, e, hs, hi, he, rfl⟩ := blockStep_next hblock
    · exact h
    · exact enable_afterMicroStep hi he (hs ▸ h)

end Sys2Proof.Machine
end

section
/-! PROOFS. Runs of the machine while the host lets the block step (10_state.md R24, 70_reset_and_hazards.md R192): part
of an operation, an operation to its end, and a request from its acceptance on. -/

namespace Sys2Proof.Machine

/-! The host. -/

/-- A host that does nothing for as long as the block is busy: it is quiet, or holds a request until the block is idle. -/
def waits : List HostAction → Bool
  | [] => true
  | .requestWhenIdle _ :: _ => true
  | .request _ :: _ => false
  | .pass :: _ => false
  | .reset :: _ => false

/-- With these actions the host lets a busy block take `n` steps, after which those actions are left. -/
inductive Lets : Nat → List HostAction → List HostAction → Prop where
  | zero (host : List HostAction) : Lets 0 host host
  | wait {n : Nat} {host left : List HostAction} : waits host = true → Lets n host left → Lets (n + 1) host left
  | pass {n : Nat} {host left : List HostAction} : Lets n host left → Lets (n + 1) (.pass :: host) left

theorem Lets.of_waits {host : List HostAction} (h : waits host = true) : ∀ n, Lets n host host
  | 0 => .zero host
  | n + 1 => .wait h (Lets.of_waits h n)

theorem Lets.of_passes (left : List HostAction) : ∀ n, Lets n (List.replicate n .pass ++ left) left
  | 0 => .zero left
  | n + 1 => .pass (Lets.of_passes left n)

/-- Such a host leaves a busy block to its own step. -/
theorem Lets.step_eq {n : Nat} {s : State} {left : List HostAction} {req : Instr} {its : List Item} {i j : Nat}
    (h : Lets (n + 1) s.host left) (hs : s.seq = .run req its i j) :
    ∃ host, step s = blockStep { s with host := host } ∧ Lets n host left := by
  generalize hh : s.host = host at h
  cases h with
  | wait hwaits hlets =>
    refine ⟨host, ?_, hlets⟩
    subst hh
    cases hh : s.host with
    | nil => exact step_quiet hh |>.trans (by rw [← hh])
    | cons action rest =>
      cases action with
      | requestWhenIdle op => exact (step_waiting hs hh).trans (by rw [← hh])
      | request op => rw [hh] at hwaits; cases hwaits
      | pass => rw [hh] at hwaits; cases hwaits
      | reset => rw [hh] at hwaits; cases hwaits
  | pass hlets => exact ⟨_, step_pass hh, hlets⟩

/-! Events. -/

/-- Two positions at which the same events have been performed are the same. -/
theorem performed_inj {its : List Item} {i j i' j' : Nat} (h : IsPosition its i j) (h' : IsPosition its i' j')
    (heq : performed its i j = performed its i' j') : i = i' ∧ j = j' := by
  have hlt : ∀ {i j i' j'}, IsPosition its i j → i < i' → (performed its i j).length < (performed its i' j').length := by
    rintro i j i' j' ⟨item, hi, hj⟩ hii'
    have hitem : (performed its i j).length < (performed its (i + 1) 0).length := by
      rw [← performed_next_item hi, performed_of_item hi, performed_of_item hi, List.length_append, List.length_append,
        List.length_take, List.length_take]
      omega
    have hlater : performed its (i + 1) 0 <+: performed its i' j' := by
      obtain ⟨between, hbetween⟩ := List.take_prefix_take_left (l := its) (Nat.succ_le_of_lt hii')
      rw [performed, performed, List.take_zero, List.append_nil, ← hbetween, itemEvents_append, List.append_assoc]
      exact List.prefix_append _ _
    exact hitem.trans_le hlater.length_le
  obtain hii' | rfl | hii' := Nat.lt_trichotomy i i'
  · exact absurd (congrArg List.length heq) (hlt h hii').ne
  · refine ⟨rfl, ?_⟩
    obtain ⟨item, hi, hj⟩ := h
    obtain ⟨item', hi', hj'⟩ := h'
    cases hi.symm.trans hi'
    rw [performed_of_item hi, performed_of_item hi] at heq
    have hlength := congrArg List.length (List.append_cancel_left heq)
    rw [List.length_take, List.length_take] at hlength
    omega
  · exact absurd (congrArg List.length heq) (hlt h' hii').ne'

/-- A position is not the end: some event is left. -/
theorem IsPosition.ne_nil_of_append {its : List Item} {i j : Nat} {es : List Event} (h : IsPosition its i j)
    (hes : performed its i j ++ es = itemEvents its) : es ≠ [] := by
  rintro rfl
  obtain ⟨item, e, hi, he⟩ := h.exists_event
  have hlength := (performed_append_prefix hi he).length_le
  rw [← hes, List.length_append, List.length_append] at hlength
  simp at hlength

/-- What is performed at a position is the beginning of the operation's events. -/
theorem IsPosition.performed_append_drop {its : List Item} {i j : Nat} (h : IsPosition its i j) :
    performed its i j ++ (itemEvents its).drop (performed its i j).length = itemEvents its := by
  obtain ⟨item, e, hi, he⟩ := h.exists_event
  obtain ⟨rest, hrest⟩ := (List.prefix_append _ _).trans (performed_append_prefix hi he)
  rw [← hrest, List.drop_left]

/-! Runs. -/

/-- One step of a busy block: it performs the next event of the operation, and goes on or ends. -/
theorem step_next_event {n : Nat} {s : State} {req : Instr} {its : List Item} {i j : Nat} {e : Event} {es : List Event}
    {left : List HostAction} (hs : s.seq = .run req its i j) (hpos : IsPosition its i j)
    (hes : performed its i j ++ e :: es = itemEvents its) (hhost : Lets (n + 1) s.host left) :
    ∃ t, step s = .next t ∧ t.lines = s.lines.apply e ∧ t.trace = s.trace ++ [e] ∧ Lets n t.host left ∧
      ((∃ i' j', t.seq = .run req its i' j' ∧ IsPosition its i' j' ∧ performed its i' j' = performed its i j ++ [e] ∧
          t.reports = s.reports) ∨
        (t.seq = .idle ∧ es = [] ∧ t.reports = s.reports ++ [.done])) := by
  obtain ⟨item, e', hi, he⟩ := hpos.exists_event
  have hfirst : e' = e := by
    obtain ⟨rest, hrest⟩ := performed_append_prefix hi he
    rw [← hes, List.append_assoc] at hrest
    exact (List.cons.inj (List.append_cancel_left hrest)).1
  subst hfirst
  obtain ⟨host, hstep, hlets⟩ := hhost.step_eq hs
  refine ⟨_, hstep.trans (blockStep_run (s := { s with host := host }) hs hi he), rfl, rfl, hlets, ?_⟩
  obtain ⟨i', j', hseq, hpos', -, hperformed, hreports⟩ | ⟨hseq, hall, hreports⟩ :=
    afterMicroStep_cases { s with host := host } req hi he
  · exact .inl ⟨i', j', hseq, hpos', hperformed, hreports⟩
  · refine .inr ⟨hseq, ?_, hreports⟩
    rw [← hes] at hall
    exact (List.cons.inj (List.append_cancel_left hall)).2

/-- Part of an operation: the next events of it, one step each, after which it still runs. -/
theorem stepN_within {req : Instr} {its : List Item} {left : List HostAction} {rest es : List Event} (hrest : rest ≠ []) :
    ∀ {s : State} {i j : Nat}, s.seq = .run req its i j → IsPosition its i j →
      performed its i j ++ es ++ rest = itemEvents its → Lets es.length s.host left →
      ∃ i' j', IsPosition its i' j' ∧ performed its i' j' = performed its i j ++ es ∧
        stepN es.length s = .next {
          lines := s.lines.after es
          seq := .run req its i' j'
          trace := s.trace ++ es
          reports := s.reports
          host := left } := by
  induction es with
  | nil =>
    intro s i j hs hpos _ hhost
    cases hhost
    exact ⟨i, j, hpos, (List.append_nil _).symm, by rw [List.append_nil, ← hs]; rfl⟩
  | cons e es ih =>
    intro s i j hs hpos hes hhost
    rw [List.append_assoc, List.cons_append] at hes
    obtain ⟨t, hstep, hlines, htrace, hlets, ⟨i', j', hseq, hpos', hperformed, hreports⟩ | ⟨-, hend, -⟩⟩ :=
      step_next_event hs hpos hes hhost
    · have hes' : performed its i' j' ++ es ++ rest = itemEvents its := by
        rw [hperformed, ← hes, List.append_assoc, List.append_assoc]; rfl
      obtain ⟨i'', j'', hpos'', hperformed', hrun⟩ := ih hseq hpos' hes' hlets
      refine ⟨i'', j'', hpos'', by rw [hperformed', hperformed, List.append_assoc]; rfl, ?_⟩
      rw [List.length_cons, stepN_succ _ hstep, hrun, hlines, htrace, hreports, List.append_assoc]
      rfl
    · exact absurd (List.append_eq_nil_iff.mp hend).2 hrest

/-- The rest of an operation: all the events left, one step each, then idle with `Done` reported. -/
theorem stepN_to_end {req : Instr} {its : List Item} {left : List HostAction} {es : List Event} :
    ∀ {s : State} {i j : Nat}, s.seq = .run req its i j → IsPosition its i j →
      performed its i j ++ es = itemEvents its → Lets es.length s.host left →
      stepN es.length s = .next {
        lines := s.lines.after es
        seq := .idle
        trace := s.trace ++ es
        reports := s.reports ++ [.done]
        host := left } := by
  induction es with
  | nil => exact fun _ hpos hes _ => absurd rfl (hpos.ne_nil_of_append hes)
  | cons e es ih =>
    intro s i j hs hpos hes hhost
    obtain ⟨t, hstep, hlines, htrace, hlets, ⟨i', j', hseq, hpos', hperformed, hreports⟩ | ⟨hseq, rfl, hreports⟩⟩ :=
      step_next_event hs hpos hes hhost
    · have hes' : performed its i' j' ++ es = itemEvents its := by
        rw [hperformed, ← hes, List.append_assoc]; rfl
      rw [List.length_cons, stepN_succ _ hstep, ih hseq hpos' hes' hlets, hlines, htrace, hreports, List.append_assoc]
      rfl
    · rw [List.length_cons, stepN_succ _ hstep]
      cases hlets
      rw [Latches.after_cons, ← hlines, ← htrace, ← hreports, ← hseq]
      rfl

/-- Settles O45: the events left at the position are the steps to the end. -/
theorem everyOperationTerminates : Obligations.EveryOperationTerminates := by
  unfold Obligations.EveryOperationTerminates
  intro s req its i j hinv hs hh
  have hpos : IsPosition its i j := ((blockInv_run_iff hs).mp hinv).position
  have hrest := hpos.performed_append_drop
  have hlength : remaining its i j = ((itemEvents its).drop (performed its i j).length).length := List.length_drop.symm
  rw [hlength]
  refine ⟨List.length_pos_of_ne_nil (hpos.ne_nil_of_append hrest), ?_⟩
  have hlets := Lets.of_waits (host := s.host) (by rw [hh]; rfl) ((itemEvents its).drop (performed its i j).length).length
  exact stepN_to_end hs hpos hrest hlets

/-- From one position of an operation to a later one, through the events between them. -/
theorem stepN_to_position {s : State} {req : Instr} {its : List Item} {i j i' j' : Nat} {es : List Event}
    {left : List HostAction} (hs : s.seq = .run req its i j) (hpos : IsPosition its i j) (hpos' : IsPosition its i' j')
    (hes : performed its i' j' = performed its i j ++ es) (hhost : Lets es.length s.host left) :
    stepN es.length s = .next {
      lines := s.lines.after es
      seq := .run req its i' j'
      trace := s.trace ++ es
      reports := s.reports
      host := left } := by
  have hall := hpos'.performed_append_drop
  have hrest := hpos'.ne_nil_of_append hall
  generalize (itemEvents its).drop (performed its i' j').length = rest at hall hrest
  rw [hes] at hall
  obtain ⟨i'', j'', hpos'', hperformed, hrun⟩ := stepN_within hrest hs hpos hall hhost
  obtain ⟨rfl, rfl⟩ := performed_inj hpos'' hpos' (hperformed.trans hes.symm)
  exact hrun

/-! One item with a quiet host. -/

theorem performed_of_start {its : List Item} {i : Nat} {item : Item} (hi : its[i]? = some item) (j : Nat) :
    performed its i j = performed its i 0 ++ item.steps.take j := by
  rw [performed_of_item hi, performed_of_item hi, List.take_zero, List.append_nil]

/-- Within an item the position's `j` counts the micro-steps performed. -/
theorem stepN_within_item {s : State} {req : Instr} {its : List Item} {i : Nat} {item : Item}
    (hs : s.seq = .run req its i 0) (hi : its[i]? = some item) (hh : s.host = []) {n : Nat} (hn : n < item.steps.length) :
    stepN n s = .next { s with
      lines := s.lines.after (item.steps.take n)
      seq := .run req its i n
      trace := s.trace ++ item.steps.take n } := by
  have hlets := Lets.of_waits (host := s.host) (by rw [hh]; rfl) (item.steps.take n).length
  rw [← stepN_to_position hs ⟨item, hi, item.steps_length_pos⟩ ⟨item, hi, hn⟩ (performed_of_start hi n) hlets,
    List.length_take_of_le hn.le]

/-- A whole item: its micro-steps, then the next item, or idle with `Done` after the last. -/
theorem stepN_item {s : State} {req : Instr} {its : List Item} {i : Nat} {item : Item} (hs : s.seq = .run req its i 0)
    (hi : its[i]? = some item) (hh : s.host = []) :
    stepN item.steps.length s = .next { s with
      lines := s.lines.after item.steps
      seq := if i + 1 < its.length then .run req its (i + 1) 0 else .idle
      trace := s.trace ++ item.steps
      reports := s.reports ++ if i + 1 < its.length then [] else [.done] } := by
  have hpos : IsPosition its i 0 := ⟨item, hi, item.steps_length_pos⟩
  have hlets := Lets.of_waits (host := s.host) (by rw [hh]; rfl) item.steps.length
  have hnext : performed its (i + 1) 0 = performed its i 0 ++ item.steps := by
    rw [← performed_next_item hi, performed_of_start hi, List.take_length]
  by_cases hlast : i + 1 < its.length
  · have hpos' : IsPosition its (i + 1) 0 := ⟨_, List.getElem?_eq_getElem hlast, Item.steps_length_pos _⟩
    rw [stepN_to_position hs hpos hpos' hnext hlets, if_pos hlast, if_pos hlast, List.append_nil]
  · rw [performed_of_length_le (by omega)] at hnext
    rw [stepN_to_end hs hpos hnext.symm hlets, if_neg hlast, if_neg hlast]

/-! One byte. -/

/-- The micro-steps of `shiftByte(b)` are the rows of the table of R105. -/
theorem getElem?_shiftByteSteps (b : Byte) (j : Nat) : (shiftByteSteps b)[j]? = shiftByteTable b j := by
  by_cases hj : j < 64
  · interval_cases j <;> rfl
  · have hout : shiftByteTable b j = none := by
      rw [shiftByteTable]
      repeat rw [if_neg (by omega)]
    rw [List.getElem?_eq_none (by rw [shiftByteSteps_length]; omega), hout]

/-- Settles O9: a byte is one item of 64 micro-steps, the rows of the table. -/
theorem shiftByteRunsItsSixtyFourSteps : Obligations.ShiftByteRunsItsSixtyFourSteps := by
  unfold Obligations.ShiftByteRunsItsSixtyFourSteps
  intro b s req its i hs hb hh
  exact ⟨_, stepN_item hs hb hh, after_shiftByteSteps s.lines b,
    ⟨shiftByteSteps b, rfl, shiftByteSteps_length b, fun j _ => getElem?_shiftByteSteps b j⟩, rfl, rfl⟩

/-- Settles O11: the register-clear cycle is the first 33 micro-steps of a byte. -/
theorem clearRegisterRunsItsThirtyThreeSteps : Obligations.ClearRegisterRunsItsThirtyThreeSteps := by
  unfold Obligations.ClearRegisterRunsItsThirtyThreeSteps
  intro b s req its i hs hb hh
  have hlt : 33 < (Item.byte b).steps.length := by rw [Item.steps_byte, shiftByteSteps_length]; decide
  exact stepN_within_item hs hb hh hlt

/-! A request from its acceptance on. -/

theorem exec_of_valid {op : Instr} {s : State} (hpub : op.isPublic = true) (hvalid : requestError op = none)
    (hs : s.seq = .idle) : exec op s = .next { s with seq := .run op (items op) 0 0 } := by
  rw [exec_public s hpub, hvalid]
  exact accept_idle op hs

/-- A request that fails its validation is answered with its error, and nothing else changes (60_exceptions.md R164). -/
theorem rejects_of_requestError {op : Instr} {r : Report} {s : State} (hpub : op.isPublic = true)
    (herror : requestError op = some r) (hs : s.seq = .idle) : Rejects op r s := by
  rw [Rejects, exec_public s hpub, herror]
  exact raise_idle r hs

/-- The start of a public operation is a position of its items. -/
theorem isPosition_start {op : Instr} (hpub : op.isPublic = true) : IsPosition (items op) 0 0 := by
  obtain ⟨its, hits, -⟩ := items_eq_mode_cons hpub
  exact ⟨.mode (modeOf op), by rw [hits]; rfl, Nat.one_pos⟩

/-- A valid operation performs its items. -/
theorem performs_items {op : Instr} {s : State} (hpub : op.isPublic = true) (hvalid : requestError op = none)
    (hs : s.seq = .idle) : Performs op (items op) s :=
  ⟨exec_of_valid hpub hvalid hs, stepN_to_end rfl (isPosition_start hpub) rfl (Lets.of_waits rfl _)⟩

/-- A request of an idle block, whose host then waits: acceptance and the walk, or the error at once; its trace, its one
report, and the latches these events leave (R144, R172). -/
theorem stepN_request {op : Instr} {s : State} {rest : List HostAction} (hpub : op.isPublic = true) (hs : s.seq = .idle)
    (hh : s.host = .requestWhenIdle op :: rest) (hrest : waits rest = true) :
    stepN (1 + (opEvents op).length) s = .next {
      lines := s.lines.after (opEvents op)
      seq := .idle
      trace := s.trace ++ opEvents op
      reports := s.reports ++ [opReport op]
      host := rest } := by
  have hstep := step_request_idle hs (.inr hh)
  rw [Nat.add_comm]
  cases hvalid : requestError op with
  | some r =>
    rw [opEvents_of_requestError hvalid, List.append_nil, opReport, hvalid]
    have hraise : step s = _ := hstep.trans (rejects_of_requestError (s := { s with host := rest }) hpub hvalid hs)
    rw [stepN_succ _ hraise, ← hs]
    rfl
  | none =>
    rw [opReport, hvalid, opEvents_of_valid hvalid]
    rw [stepN_succ _ (hstep.trans (exec_of_valid (s := { s with host := rest }) hpub hvalid hs))]
    exact stepN_to_end rfl (isPosition_start hpub) rfl (Lets.of_waits hrest _)

theorem opReport_of_valid {op : Instr} (h : requestError op = none) : opReport op = .done := by rw [opReport, h]

/-- Settles O46: a host that holds requests waits while the block is busy, so each request runs as it would alone. -/
theorem aProgramsTraceIsItsRequestsTraces : Obligations.AProgramsTraceIsItsRequestsTraces := by
  unfold Obligations.AProgramsTraceIsItsRequestsTraces
  intro program
  induction program with
  | nil =>
    intro s _ hs hh
    rw [List.map_nil] at hh
    rw [List.flatMap_nil, List.append_nil, List.map_nil, List.map_nil, List.append_nil, ← hs, ← hh]
    rfl
  | cons op program ih =>
    intro s hpub hs hh
    rw [List.all_cons, Bool.and_eq_true] at hpub
    have hwaits : waits (program.map .requestWhenIdle) = true := by cases program <;> rfl
    have hfirst := stepN_request hpub.1 hs hh hwaits
    rw [List.map_cons, List.sum_cons, stepN_add _ _ hfirst, ih _ hpub.2 rfl rfl, List.flatMap_cons, List.map_cons,
      Latches.after_append, List.append_assoc, List.append_assoc]
    rfl

/-- Settles O52: a reset leaves the lines at these levels and the block idle, and the next request runs from there. -/
theorem recoveryFromAResetAtKnownLevels : Obligations.RecoveryFromAResetAtKnownLevels := by
  unfold Obligations.RecoveryFromAResetAtKnownLevels
  intro levels s following hpub hvalid hh
  refine ⟨_, hostStep_reset levels hh, rfl, rfl, ?_⟩
  rw [stepN_request hpub rfl rfl rfl, opReport_of_valid hvalid]

/-- Settles O49: the passes let the block take the first events, the reset makes it idle, and the next request runs from
lines without values. -/
theorem aResetCutsTheOperationShort : Obligations.AResetCutsTheOperationShort := by
  unfold Obligations.AResetCutsTheOperationShort
  intro s op following n hpub hvalid hpub' hvalid' hs hn hh
  have hlength : ((opEvents op).take n).length = n := List.length_take_of_le hn.le
  have hlets : Lets ((opEvents op).take n).length (List.replicate n .pass ++ [.reset, .requestWhenIdle following])
      [.reset, .requestWhenIdle following] := by rw [hlength]; exact .of_passes _ n
  have hrest : (opEvents op).drop n ≠ [] := by rw [Ne, List.drop_eq_nil_iff]; omega
  have hall : performed (items op) 0 0 ++ (opEvents op).take n ++ (opEvents op).drop n = itemEvents (items op) := by
    rw [performed_zero, List.nil_append, List.take_append_drop, opEvents_of_valid hvalid]
  have haccept := (step_request_idle hs (.inr hh)).trans (exec_of_valid (s := { s with host := _ }) hpub hvalid hs)
  obtain ⟨i, j, -, -, hrun⟩ := stepN_within (s := { s with
    seq := .run op (items op) 0 0
    host := List.replicate n .pass ++ [.reset, .requestWhenIdle following] }) hrest rfl (isPosition_start hpub) hall hlets
  have hcut := (stepN_succ _ haccept).trans hrun
  rw [hlength, Nat.add_comm n 1] at hcut
  refine ⟨⟨_, hcut, rfl, rfl, rfl, rfl⟩, ?_⟩
  have hreset := hostStep_reset (s := {
    lines := s.lines.after ((opEvents op).take n)
    seq := .run op (items op) i j
    trace := s.trace ++ (opEvents op).take n
    reports := s.reports
    host := [.reset, .requestWhenIdle following] }) Latches.reset rfl
  rw [stepN_add _ _ hcut, Nat.add_comm 1 (1 + _), stepN_succ _ hreset, stepN_request hpub' rfl rfl rfl,
    opReport_of_valid hvalid']
  rfl

end Sys2Proof.Machine
end

section
/-! PROOFS. The twelve public operations (42_lcd_driver_ops.md R131 to R142): the items each performs, its size, its end
levels, and the errors. -/

namespace Sys2Proof.Machine

/-- A valid operation performs these items, if they are its expansion. -/
theorem performs_of_items_eq {op : Instr} {its : List Item} {s : State} (hits : items op = its)
    (hpub : op.isPublic = true) (hvalid : requestError op = none) (hs : s.seq = .idle) : Performs op its s :=
  hits ▸ performs_items hpub hvalid hs

/-- One micro-step per mode selection and 64 per byte (R146). -/
theorem opEvents_length {op : Instr} (hpub : op.isPublic = true) (hvalid : requestError op = none) :
    (opEvents op).length = (if op = .construct then 3 else 1) + 64 * byteCount op := by
  rw [opEvents_of_valid hvalid, items_eq_selections hpub, itemEvents_selections_length, selections_length op hpub,
    selections_flatten_length op hpub]

/-- Settles O17: the items of `construct` are the three selections of R131. -/
theorem constructPerforms : Obligations.ConstructPerforms := by
  unfold Obligations.ConstructPerforms
  have hits : items .construct =
      [.mode false, .byte 0x38#8, .mode false, .byte 0x0C#8, .mode false, .byte 0x06#8] := by decide
  exact ⟨fun s hs => performs_of_items_eq hits rfl rfl hs, opEvents_length rfl rfl, rfl, rfl⟩

/-- Settles O18: each of the three is one selection and one byte. -/
theorem singleByteCommandsPerform : Obligations.SingleByteCommandsPerform := by
  unfold Obligations.SingleByteCommandsPerform
  intro s hs
  exact ⟨performs_items rfl rfl hs, performs_items rfl rfl hs, performs_items rfl rfl hs, opEvents_length rfl rfl,
    opEvents_length rfl rfl, opEvents_length rfl rfl, rfl, rfl, rfl⟩

/-- Settles O19: the bytes of the setters by the tables of R73 and R74. -/
theorem settersPerform : Obligations.SettersPerform := by
  unfold Obligations.SettersPerform
  intro s hs
  have hentry : ∀ {d v : Bool} {b : Byte}, entryModeByte d v = b →
      Performs (.setEntryMode d v) [.mode false, .byte b] s :=
    fun hb => performs_of_items_eq (congrArg ([Item.mode false, .byte ·]) hb) rfl rfl hs
  have hcursor : ∀ {a k : Bool} {b : Byte}, cursorModeByte a k = b →
      Performs (.setCursorMode a k) [.mode false, .byte b] s :=
    fun hb => performs_of_items_eq (congrArg ([Item.mode false, .byte ·]) hb) rfl rfl hs
  exact ⟨hentry (by decide), hentry (by decide), hentry (by decide), hentry (by decide), hcursor rfl, hcursor rfl,
    hcursor rfl, hcursor rfl, fun _ _ => ⟨opEvents_length rfl rfl, opEvents_length rfl rfl⟩⟩

/-- Settles O20: in range the one byte is the sum of R75, out of range the request is a `RangeError`. -/
theorem setCursorPerformsOrRejects : Obligations.SetCursorPerformsOrRejects := by
  unfold Obligations.SetCursorPerformsOrRejects
  intro s x y hs
  refine ⟨fun ⟨hx0, hx15, hy0, hy1⟩ => ?inRange, fun hout => ?outOfRange⟩
  case inRange =>
    have hvalid := (requestError_setCursor_eq_none_iff x y).mpr ((cursorInRange_iff x y).mpr ⟨hx0, hx15, by omega⟩)
    have hbyte : setCursorByte x y = BitVec.ofInt 8 (0x80 + x + (if y = 1 then 0x40 else 0)) :=
      congrArg (BitVec.ofInt 8) (Int.add_assoc _ _ _).symm
    refine ⟨performs_of_items_eq ?_ rfl hvalid hs, opEvents_length rfl hvalid⟩
    rw [items_setCursor, hbyte]
  case outOfRange =>
    have herror := requestError_setCursor_of_outOfRange hout
    exact ⟨rejects_of_requestError rfl herror hs, opEvents_of_requestError herror⟩

/-- The expansion of one selection and a byte repeated. -/
theorem selectAndSend_replicate (n : Nat) (b : Byte) :
    selectAndSend .oncePerOperation false (List.replicate n b) = .mode false :: List.replicate n (.byte b) := by
  rw [selectAndSend_once, List.map_replicate]

/-- A shift repeats its byte `step` times, and not at all for a `step` that is not positive (R143). -/
theorem performs_shift {op : Instr} {step : Int} {b : Byte} {s : State} (hpub : op.isPublic = true)
    (hvalid : requestError op = none) (hs : s.seq = .idle)
    (hits : items op = selectAndSend .oncePerOperation false (List.replicate (reps step) b)) :
    Performs op (.mode false :: List.replicate step.toNat (.byte b)) s := by
  rw [reps_eq_toNat, selectAndSend_replicate] at hits
  exact performs_of_items_eq hits hpub hvalid hs

/-- Settles O21: each shift repeats its byte, and a negative step is no repetition. -/
theorem shiftsRepeatTheirByte : Obligations.ShiftsRepeatTheirByte := by
  unfold Obligations.ShiftsRepeatTheirByte
  intro s hs
  have hshifts : ∀ step : Int,
      Performs (.shiftCursorLeft step) (.mode false :: List.replicate step.toNat (.byte 0x10#8)) s ∧
      Performs (.shiftCursorRight step) (.mode false :: List.replicate step.toNat (.byte 0x14#8)) s ∧
      Performs (.shiftDisplayLeft step) (.mode false :: List.replicate step.toNat (.byte 0x18#8)) s ∧
      Performs (.shiftDisplayRight step) (.mode false :: List.replicate step.toNat (.byte 0x1C#8)) s := fun step =>
    ⟨performs_shift rfl rfl hs rfl, performs_shift rfl rfl hs rfl, performs_shift rfl rfl hs rfl,
      performs_shift rfl rfl hs rfl⟩
  refine ⟨fun n => ?_, fun step hneg => ?_⟩
  · obtain ⟨hcl, hcr, hdl, hdr⟩ := hshifts n
    refine ⟨hcl, hcr, hdl, hdr, ?_⟩
    have hlength := itemEvents_selections_length false [List.replicate n 0x10#8]
    rwa [List.flatMap_singleton, selectAndSend_replicate, List.flatten_singleton, List.length_replicate] at hlength
  · have hnone := hshifts step
    rwa [Int.toNat_of_nonpos hneg.le] at hnone

/-! `write`. -/

theorem lengthError_eq_none {string : List Byte} (hpos : 1 ≤ string.length) (hmax : string.length ≤ 16) :
    lengthError string = none := by
  rw [lengthError, Config.minWriteLen, Config.maxWriteLen, if_neg (by omega), if_neg (by omega)]

theorem lengthError_of_long {string : List Byte} (h : string.length > 16) :
    lengthError string = some (.lengthErrorOverflow (string.length - 16)) := by
  rw [lengthError, Config.minWriteLen, Config.maxWriteLen, if_neg (by omega), if_pos h]

/-- Settles O22: the length decides, and the string is sent as it is. -/
theorem writePerformsOrRejects : Obligations.WritePerformsOrRejects := by
  unfold Obligations.WritePerformsOrRejects
  intro s string hs
  refine ⟨fun ⟨hpos, hmax⟩ => ?valid, fun hempty => ?empty, fun hlong => ?long⟩
  case valid =>
    have hvalid : requestError (.write string) = none := lengthError_eq_none hpos hmax
    exact ⟨performs_items rfl hvalid hs, opEvents_length rfl hvalid⟩
  case empty =>
    obtain rfl := List.length_eq_zero_iff.mp hempty
    exact rejects_of_requestError rfl rfl hs
  case long => exact rejects_of_requestError rfl (lengthError_of_long hlong) hs

/-! Errors. -/

/-- The requests that are answered with an error, and with which (60_exceptions.md R160 to R162). -/
theorem requestError_eq_some {op : Instr} {r : Report} (h : requestError op = some r) :
    (∃ x y, op = .setCursor x y ∧ (x < 0 ∨ x > 15 ∨ y < 0 ∨ y > 1) ∧ r = .rangeError x y) ∨
    (op = .write [] ∧ r = .lengthErrorEmpty) ∨
    (∃ string, op = .write string ∧ string.length > 16 ∧ r = .lengthErrorOverflow (string.length - 16)) := by
  cases op with
  | setCursor x y =>
    rw [requestError] at h
    split at h
    · cases h
    · next hrange =>
      rw [cursorInRange_iff] at hrange
      exact .inl ⟨x, y, rfl, by omega, (Option.some.inj h).symm⟩
  | write string =>
    rw [requestError, lengthError, Config.minWriteLen, Config.maxWriteLen] at h
    split_ifs at h with hempty hlong
    · obtain rfl := List.length_eq_zero_iff.mp (Nat.lt_one_iff.mp hempty)
      exact .inr (.inl ⟨rfl, (Option.some.inj h).symm⟩)
    · exact .inr (.inr ⟨string, rfl, hlong, (Option.some.inj h).symm⟩)
  | _ => cases h

/-- Every instruction is a public operation or performs one micro-step. -/
theorem exec_next {op : Instr} {s t : State} (h : exec op s = .next t) :
    (op.isPublic = true ∧ s.seq = .idle ∧ ((∃ r, requestError op = some r ∧ t = { s with reports := s.reports ++ [r] }) ∨
      (requestError op = none ∧ t = { s with seq := .run op (items op) 0 0 }))) ∨
    ∃ req its i j len e, s.seq = .run req its i j ∧ t = afterMicroStep s req its i j len e := by
  have hmicro : ∀ {procedure len}, microStep procedure len s = .next t →
      ∃ req its i j len e, s.seq = .run req its i j ∧ t = afterMicroStep s req its i j len e := fun h => by
    obtain ⟨req, its, i, j, e, hs, -, ht⟩ := microStep_next h
    exact ⟨req, its, i, j, _, e, hs, ht⟩
  cases op with
  | shiftByte b => exact .inr (hmicro h)
  | clearRegister => exact .inr (hmicro h)
  | setMode m => exact .inr (hmicro h)
  | _ => exact .inl ⟨rfl, exec_public_next rfl h⟩

/-- A micro-step reports nothing or `Done`. -/
theorem afterMicroStep_reports (s : State) (req : Instr) (its : List Item) (i j len : Nat) (e : Event) :
    (afterMicroStep s req its i j len e).reports = s.reports ∨
      (afterMicroStep s req its i j len e).reports = s.reports ++ [.done] := by
  by_cases hgoes : j + 1 < len ∨ i + 1 < its.length
  · exact .inl (by simp only [afterMicroStep, if_pos hgoes, List.append_nil])
  · exact .inr (by simp only [afterMicroStep, if_neg hgoes])

/-- Settles O26: a public operation reports its error or nothing, a micro-step `Done` or nothing. -/
theorem onlyWriteAndSetCursorRaise : Obligations.OnlyWriteAndSetCursorRaise := by
  unfold Obligations.OnlyWriteAndSetCursorRaise
  refine ⟨fun s x y hs hout => rejects_of_requestError rfl (requestError_setCursor_of_outOfRange hout) hs,
    fun s hs => rejects_of_requestError rfl rfl hs,
    fun s string hs hlong => rejects_of_requestError rfl (lengthError_of_long hlong) hs, fun op s t h => ?_⟩
  obtain ⟨-, -, ⟨r, herror, rfl⟩ | ⟨-, rfl⟩⟩ | ⟨req, its, i, j, len, e, -, rfl⟩ := exec_next h
  · obtain ⟨x, y, rfl, hout, rfl⟩ | ⟨rfl, rfl⟩ | ⟨string, rfl, hlong, rfl⟩ := requestError_eq_some herror
    · exact .inr (.inr (.inl ⟨x, y, rfl, hout, rfl⟩))
    · exact .inr (.inr (.inr (.inl ⟨rfl, rfl⟩)))
    · exact .inr (.inr (.inr (.inr ⟨string, rfl, hlong, rfl⟩)))
  · exact .inl rfl
  · obtain hnone | hdone := afterMicroStep_reports s req its i j len e
    · exact .inl hnone
    · exact .inr (.inl hdone)

/-! The end levels. -/

/-- Items that send no byte write the mode line alone. -/
theorem after_itemEvents_of_no_words {its : List Item} {m : Level} (h : itemWords m its = []) :
    ∀ L : Latches, L.after (itemEvents its) = { L with lcdModeSelect := (L.after (itemEvents its)).lcdModeSelect } := by
  induction its generalizing m with
  | nil => exact fun _ => rfl
  | cons item its ih =>
    cases item with
    | byte b => cases h
    | mode m' =>
      intro L
      exact ih (m := m') h (L.set .lcdModeSelect m')

/-- Items that send a byte leave the lines but the mode line as the last one does (40_register_shifter.md R108). -/
theorem after_itemEvents_of_getLast {its : List Item} {m : Level} {w : LcdWord} (h : (itemWords m its).getLast? = some w) :
    ∀ L : Latches, L.after (itemEvents its) =
      ⟨some (w.getLsbD 7), some false, some true, some false, (L.after (itemEvents its)).lcdModeSelect⟩ := by
  induction its generalizing m with
  | nil => cases h
  | cons item its ih =>
    intro L
    cases item with
    | mode m' => exact ih (m := m') h (L.set .lcdModeSelect m')
    | byte b =>
      rw [itemEvents_cons, Latches.after_append, Item.steps_byte]
      rw [itemWords, List.getLast?_cons] at h
      cases hlast : (itemWords m its).getLast? with
      | some w' =>
        rw [hlast] at h
        cases h
        exact ih hlast _
      | none =>
        rw [hlast] at h
        cases h
        have hbit : ∀ (m : Level) (b : Byte), (BitVec.ofBool m ++ b : LcdWord).getLsbD 7 = b.getLsbD 7 := by decide
        rw [Option.getD_none, hbit, after_itemEvents_of_no_words (List.getLast?_eq_none_iff.mp hlast)]
        rfl

/-- A valid operation leaves the mode line at its level (R122). -/
theorem lcdModeSelect_after_opEvents {op : Instr} (L : Latches) (hpub : op.isPublic = true)
    (hvalid : requestError op = none) : (L.after (opEvents op)).lcdModeSelect = some (modeOf op) := by
  obtain ⟨its, hits, hmode⟩ := items_eq_mode_cons hpub
  rw [opEvents_of_valid hvalid, hits]
  exact get_mode_after_itemEvents hmode (L := L.set .lcdModeSelect (modeOf op)) rfl

/-- Settles O24: the last byte decides four lines, and the operation's selections the mode line. -/
theorem endLevelsOfAnOperation : Obligations.EndLevelsOfAnOperation := by
  unfold Obligations.EndLevelsOfAnOperation
  intro s op hpub hvalid hs hh
  have hmode := lcdModeSelect_after_opEvents s.lines hpub hvalid
  refine ⟨_, stepN_request hpub hs hh rfl, rfl, by rw [opReport_of_valid hvalid], fun w hw => ?bytes, fun hnone => ?none⟩
  case bytes =>
    rw [← expansionSpellsTheTableWords op false hpub hvalid] at hw
    have hlines := after_itemEvents_of_getLast hw s.lines
    rw [← opEvents_of_valid hvalid, hmode] at hlines
    exact hlines
  case none =>
    rw [← expansionSpellsTheTableWords op false hpub hvalid] at hnone
    have hlines := after_itemEvents_of_no_words hnone s.lines
    rw [← opEvents_of_valid hvalid, hmode] at hlines
    exact hlines

end Sys2Proof.Machine
end

section
/-! PROOFS. The internal procedures at each position of their tables (40_register_shifter.md R104, R105,
41_mode_selector.md R120). -/

namespace Sys2Proof.Machine

/-- The table of R105 has the rows 0 to 63. -/
theorem exists_shiftByteTable_iff (b : Byte) (j : Nat) : (∃ e, shiftByteTable b j = some e) ↔ j < 64 := by
  rw [← getElem?_shiftByteSteps, ← Option.isSome_iff_exists, isSome_getElem?, shiftByteSteps_length]

/-- Settles O8: a `shiftByte` is one micro-step of its table. -/
theorem shiftBytePerformsItsTable : Obligations.ShiftBytePerformsItsTable := by
  unfold Obligations.ShiftBytePerformsItsTable
  intro b s req its i j hs
  refine ⟨fun e he => ?_, exists_shiftByteTable_iff b j⟩
  rw [← getElem?_shiftByteSteps] at he
  exact microStep_run hs he

/-- The register-clear cycle opens the micro-steps of every byte (R104). -/
theorem getElem?_clearRegisterSteps (b : Byte) {j : Nat} (h : j < 33) :
    clearRegisterSteps[j]? = (shiftByteSteps b)[j]? := by
  rw [shiftByteSteps_eq, List.getElem?_append_left (by rwa [clearRegisterSteps_length])]

/-- Settles O10: below 33 the two procedures name the same micro-step of an item of 64. -/
theorem clearRegisterOpensEveryShiftByte : Obligations.ClearRegisterOpensEveryShiftByte := by
  unfold Obligations.ClearRegisterOpensEveryShiftByte
  intro s req its i j hs hj
  obtain ⟨e, he⟩ := (exists_shiftByteTable_iff 0#8 j).mpr (by omega)
  have hclear : clearRegisterSteps[j]? = some e := by
    rw [getElem?_clearRegisterSteps 0#8 hj, getElem?_shiftByteSteps, he]
  have hexec : exec .clearRegister s = .next (afterMicroStep s req its i j 64 e) := microStep_run hs hclear
  refine ⟨e, he, hexec, fun b => ?_⟩
  rw [hexec]
  exact microStep_run hs ((getElem?_clearRegisterSteps b hj).symm.trans hclear)

/-- Settles O12: the one micro-step of `setMode`, which is always the last of its item. -/
theorem setModeWritesOnlyTheModeLine : Obligations.SetModeWritesOnlyTheModeLine := by
  unfold Obligations.SetModeWritesOnlyTheModeLine
  refine ⟨fun m s req its i hs => ?_, rfl, fun m => by cases m <;> rfl⟩
  have hexec : exec (.setMode m) s = .next (afterMicroStep s req its i 0 1 (.set .lcdModeSelect m)) :=
    microStep_run hs rfl
  have hlast : ¬ 0 + 1 < 1 := by decide
  rw [hexec, afterMicroStep]
  simp only [hlast, false_or]
  rfl

/-- Settles O13: past the end of its procedure a micro-step has no event, and past the last item there is none. -/
theorem positionsOutsideTheTablesAreFaults : Obligations.PositionsOutsideTheTablesAreFaults := by
  unfold Obligations.PositionsOutsideTheTablesAreFaults
  intro s req its i j hs
  refine ⟨fun b hj => ?byte, fun hj => ?clear, fun m hj => ?mode, fun hi hh => ?item⟩
  case byte => exact microStep_out hs (List.getElem?_eq_none (by rwa [shiftByteSteps_length]))
  case clear => exact microStep_out hs (List.getElem?_eq_none (by rwa [clearRegisterSteps_length]))
  case mode => exact microStep_out hs (List.getElem?_eq_none (by rwa [setModeSteps_length]))
  case item => simp only [step_quiet hh, blockStep, hs, List.getElem?_eq_none hi]

end Sys2Proof.Machine
end

section
/-! PROOFS. What one step of the machine can do (60_exceptions.md R172, 10_state.md R22 to R25), the host's actions and
reset (70_reset_and_hazards.md R180). -/

namespace Sys2Proof.Machine

/-! The outcomes of a step. -/

/-- Settles O36: a reset ends the operation, no request is answered while it runs, and a micro-step keeps its items. -/
theorem requestLatchIsFixedWhileRunning : Obligations.RequestLatchIsFixedWhileRunning := by
  unfold Obligations.RequestLatchIsFixedWhileRunning
  intro s t req its i j hs hstep
  obtain ⟨rest, -, rfl⟩ | ⟨op, rest, -, hidle, -⟩ | ⟨host, hblock, -⟩ := step_next hstep
  · exact .inl rfl
  · cases hs.symm.trans hidle
  · obtain ⟨hidle, -⟩ | ⟨req', its', i', j', item, e, hs', hi, he, rfl⟩ := blockStep_next hblock
    · cases hs.symm.trans hidle
    · cases hs.symm.trans hs'
      obtain ⟨i'', j'', hseq, -⟩ | ⟨hseq, -⟩ := afterMicroStep_cases { s with host := host } req hi he
      · exact .inr ⟨i'', j'', hseq⟩
      · exact .inl hseq

/-- Settles O37: acceptance and rejection perform no event, a micro-step its one. -/
theorem aStepPerformsAtMostOneEvent : Obligations.AStepPerformsAtMostOneEvent := by
  unfold Obligations.AStepPerformsAtMostOneEvent
  intro s t hstep hreset
  obtain ⟨rest, hh, -⟩ | ⟨op, rest, -, hs, hpub, hexec⟩ | ⟨host, hblock, -⟩ := step_next hstep
  · exact absurd hh (hreset rest)
  · have hbusy : s.busy = false := by rw [State.busy, hs]
    rw [hbusy]
    obtain ⟨-, ⟨r, -, rfl⟩ | ⟨-, rfl⟩⟩ := exec_public_next hpub hexec
    · exact ⟨[], [r], (List.append_nil _).symm, rfl, rfl, rfl, Nat.le_refl _⟩
    · exact ⟨[], [], (List.append_nil _).symm, rfl, (List.append_nil _).symm, rfl, Nat.zero_le _⟩
  · obtain ⟨hs, rfl⟩ | ⟨req, its, i, j, item, e, hs, hi, he, rfl⟩ := blockStep_next hblock
    · have hbusy : s.busy = false := by rw [State.busy, show s.seq = .idle from hs]
      rw [hbusy]
      exact ⟨[], [], (List.append_nil _).symm, rfl, (List.append_nil _).symm, rfl, Nat.zero_le _⟩
    · have hbusy : s.busy = true := by rw [State.busy, show s.seq = .run req its i j from hs]
      rw [hbusy]
      obtain hnone | hdone := afterMicroStep_reports { s with host := host } req its i j item.steps.length e
      · exact ⟨[e], [], rfl, rfl, hnone.trans (List.append_nil _).symm, rfl, Nat.zero_le _⟩
      · exact ⟨[e], [.done], rfl, rfl, hdone, rfl, Nat.le_refl _⟩

/-- Settles O38: only a micro-step appends an event, and its item's kind tells the line. -/
theorem onlySetModeWritesTheModeLine : Obligations.OnlySetModeWritesTheModeLine := by
  unfold Obligations.OnlySetModeWritesTheModeLine
  intro s t line v hstep htrace
  have hgrown : t.trace ≠ s.trace := fun h => by
    rw [h] at htrace
    simpa using congrArg List.length htrace
  obtain ⟨rest, -, rfl⟩ | ⟨op, rest, -, -, hpub, hexec⟩ | ⟨host, hblock, -⟩ := step_next hstep
  · exact absurd rfl hgrown
  · obtain ⟨-, ⟨r, -, rfl⟩ | ⟨-, rfl⟩⟩ := exec_public_next hpub hexec
    · exact absurd rfl hgrown
    · exact absurd rfl hgrown
  · obtain ⟨-, rfl⟩ | ⟨req, its, i, j, item, e, hs, hi, he, rfl⟩ := blockStep_next hblock
    · exact absurd rfl hgrown
    · obtain rfl : e = .set line v := (List.cons.inj (List.append_cancel_left htrace)).1
      refine ⟨req, its, i, j, hs, ?_⟩
      cases item with
      | mode m =>
        cases j with
        | zero => cases he; exact .inl ⟨rfl, hi⟩
        | succ j => cases he
      | byte b => exact .inr ⟨of_decide_eq_true (leaves_mode_of_mem_byte (List.mem_of_getElem? he)), b, hi⟩

/-! What a step does not read. -/

/-- The state with other latches, trace and reports. -/
def State.withRecord (s : State) (L : Latches) (tr : List Event) (rs : List Report) : State :=
  { s with lines := L, trace := tr, reports := rs }

/-- An outcome in place of another, from a state with other latches, trace and reports: the same stop, or the same state
but for these, with the same event and report added. -/
def SameBut (tr tr' : List Event) (rs rs' : List Report) (o o' : Outcome) : Prop :=
  (∀ f, o = .fault f → o' = .fault f) ∧ (∀ r, o = .refused r → o' = .refused r) ∧
    (∀ t, o = .next t → ∃ (es : List Event) (rp : List Report) (L' : Latches),
      t.trace = tr ++ es ∧ t.reports = rs ++ rp ∧ o' = .next (t.withRecord L' (tr' ++ es) (rs' ++ rp)))

theorem SameBut.of_fault {tr tr' : List Event} {rs rs' : List Report} {f : Fault} {o o' : Outcome} (h : o = .fault f)
    (h' : o' = .fault f) : SameBut tr tr' rs rs' o o' := by
  subst h h'
  exact ⟨fun _ h => h, fun _ h => (nomatch h), fun _ h => (nomatch h)⟩

theorem SameBut.of_refused {tr tr' : List Event} {rs rs' : List Report} {r : Refusal} {o o' : Outcome}
    (h : o = .refused r) (h' : o' = .refused r) : SameBut tr tr' rs rs' o o' := by
  subst h h'
  exact ⟨fun _ h => (nomatch h), fun _ h => h, fun _ h => (nomatch h)⟩

theorem SameBut.of_next {tr tr' : List Event} {rs rs' : List Report} {t : State} {o o' : Outcome} {es : List Event}
    {rp : List Report} {L' : Latches} (h : o = .next t) (htrace : t.trace = tr ++ es) (hreports : t.reports = rs ++ rp)
    (h' : o' = .next (t.withRecord L' (tr' ++ es) (rs' ++ rp))) : SameBut tr tr' rs rs' o o' := by
  subst h h'
  refine ⟨fun _ h => (nomatch h), fun _ h => (nomatch h), fun u hu => ?_⟩
  cases hu
  exact ⟨es, rp, L', htrace, hreports, rfl⟩

/-- The case in which nothing is recorded. -/
theorem SameBut.of_next_silent {tr tr' : List Event} {rs rs' : List Report} {t : State} {o o' : Outcome} {L' : Latches}
    (h : o = .next t) (htrace : t.trace = tr) (hreports : t.reports = rs) (h' : o' = .next (t.withRecord L' tr' rs')) :
    SameBut tr tr' rs rs' o o' :=
  .of_next (es := []) (rp := []) (L' := L') h (by rw [htrace, List.append_nil]) (by rw [hreports, List.append_nil])
    (by rw [h', List.append_nil, List.append_nil])

section
variable (s : State) (L : Latches) (tr : List Event) (rs : List Report)

theorem sameBut_microStep (procedure : List Event) (len : Nat) :
    SameBut s.trace tr s.reports rs (microStep procedure len s) (microStep procedure len (s.withRecord L tr rs)) := by
  cases hs : s.seq with
  | idle => exact .of_refused (microStep_idle hs) (microStep_idle hs)
  | run req its i j =>
    cases he : procedure[j]? with
    | none => exact .of_fault (microStep_out hs he) (microStep_out hs he)
    | some e => exact .of_next (microStep_run hs he) rfl rfl (microStep_run (s := s.withRecord L tr rs) hs he)

theorem sameBut_exec_public {op : Instr} (hpub : op.isPublic = true) :
    SameBut s.trace tr s.reports rs (exec op s) (exec op (s.withRecord L tr rs)) := by
  rw [exec_public s hpub, exec_public _ hpub]
  cases hs : s.seq with
  | idle =>
    cases requestError op with
    | some r =>
      refine .of_next (L' := L) (raise_idle r hs) (List.append_nil _).symm rfl ?_
      rw [List.append_nil]
      exact raise_idle r (s := s.withRecord L tr rs) hs
    | none => exact .of_next_silent (accept_idle op hs) rfl rfl (accept_idle op (s := s.withRecord L tr rs) hs)
  | run req its i j =>
    cases requestError op with
    | some r => exact .of_refused (raise_busy r hs) (raise_busy r (s := s.withRecord L tr rs) hs)
    | none => exact .of_refused (accept_busy op hs) (accept_busy op (s := s.withRecord L tr rs) hs)

theorem sameBut_exec (op : Instr) : SameBut s.trace tr s.reports rs (exec op s) (exec op (s.withRecord L tr rs)) := by
  cases op with
  | shiftByte b => exact sameBut_microStep s L tr rs _ _
  | clearRegister => exact sameBut_microStep s L tr rs _ _
  | setMode m => exact sameBut_microStep s L tr rs _ _
  | _ => exact sameBut_exec_public s L tr rs rfl

theorem sameBut_blockStep : SameBut s.trace tr s.reports rs (blockStep s) (blockStep (s.withRecord L tr rs)) := by
  cases hs : s.seq with
  | idle => exact .of_next_silent (blockStep_idle hs) rfl rfl (blockStep_idle (s := s.withRecord L tr rs) hs)
  | run req its i j =>
    have hs' : (s.withRecord L tr rs).seq = .run req its i j := hs
    cases hi : its[i]? with
    | none =>
      exact .of_fault (f := .positionOutOfRange) (by simp only [blockStep, hs, hi]) (by simp only [blockStep, hs', hi])
    | some item =>
      cases item with
      | mode m => simpa only [blockStep, hs, hs', hi] using sameBut_exec s L tr rs (.setMode m)
      | byte b => simpa only [blockStep, hs, hs', hi] using sameBut_exec s L tr rs (.shiftByte b)

theorem sameBut_step : SameBut s.trace tr s.reports rs (step s) (step (s.withRecord L tr rs)) := by
  cases hh : s.host with
  | nil =>
    rw [step_quiet hh, step_quiet (s := s.withRecord L tr rs) hh]
    exact sameBut_blockStep s L tr rs
  | cons action rest =>
    cases action with
    | reset =>
      exact .of_next_silent (hostStep_reset _ hh) rfl rfl (hostStep_reset (s := s.withRecord L tr rs) _ hh)
    | pass =>
      rw [step_pass hh, step_pass (s := s.withRecord L tr rs) hh]
      exact sameBut_blockStep { s with host := rest } L tr rs
    | request op =>
      cases hs : s.seq with
      | idle =>
        rw [step_request_idle hs (.inl hh), step_request_idle (s := s.withRecord L tr rs) hs (.inl hh)]
        exact sameBut_exec { s with host := rest } L tr rs op
      | run req its i j =>
        exact .of_refused (step_request_busy hs hh) (step_request_busy (s := s.withRecord L tr rs) hs hh)
    | requestWhenIdle op =>
      cases hs : s.seq with
      | idle =>
        rw [step_request_idle hs (.inr hh), step_request_idle (s := s.withRecord L tr rs) hs (.inr hh)]
        exact sameBut_exec { s with host := rest } L tr rs op
      | run req its i j =>
        rw [step_waiting hs hh, step_waiting (s := s.withRecord L tr rs) hs hh]
        exact sameBut_blockStep s L tr rs

end

/-- Settles O39: neither the host's port, nor the request's execution, nor the micro-step reads them. -/
theorem behaviourIgnoresTheLatches : Obligations.BehaviourIgnoresTheLatches := by
  unfold Obligations.BehaviourIgnoresTheLatches
  exact fun s L tr rs => sameBut_step s L tr rs

/-! The host's requests. -/

/-- Settles O28. -/
theorem stepRunsThePresentedRequest : Obligations.StepRunsThePresentedRequest := by
  unfold Obligations.StepRunsThePresentedRequest
  exact fun s op rest hs hh => step_request_idle hs hh

/-- The sequencer's step is the procedure of the item at its position. -/
theorem blockStep_mode {s : State} {req : Instr} {its : List Item} {i j : Nat} {m : Level}
    (hs : s.seq = .run req its i j) (hi : its[i]? = some (.mode m)) : blockStep s = exec (.setMode m) s := by
  simp only [blockStep, hs, hi]

theorem blockStep_byte {s : State} {req : Instr} {its : List Item} {i j : Nat} {b : Byte}
    (hs : s.seq = .run req its i j) (hi : its[i]? = some (.byte b)) : blockStep s = exec (.shiftByte b) s := by
  simp only [blockStep, hs, hi]

/-- Settles O29: each of the three hosts lets the sequencer step, and its step is the item's procedure. -/
theorem stepRunsTheCurrentProcedure : Obligations.StepRunsTheCurrentProcedure := by
  unfold Obligations.StepRunsTheCurrentProcedure
  intro s req its i j hs
  refine ⟨fun m hi => ⟨fun hh => ?_, fun op rest hh => ?_, fun rest hh => ?_⟩,
    fun b hi => ⟨fun hh => ?_, fun op rest hh => ?_, fun rest hh => ?_⟩⟩
  · rw [step_quiet hh, blockStep_mode hs hi]
  · rw [step_waiting hs hh, blockStep_mode hs hi]
  · rw [step_pass hh, blockStep_mode (s := { s with host := rest }) hs hi]
  · rw [step_quiet hh, blockStep_byte hs hi]
  · rw [step_waiting hs hh, blockStep_byte hs hi]
  · rw [step_pass hh, blockStep_byte (s := { s with host := rest }) hs hi]

/-- A placed public operation is what the next step runs, in an idle block. -/
theorem step_placeInstr_public {op : Instr} (s : State) (h : op.isPublic = true) :
    step (placeInstr op s) = exec op { s with seq := .idle } := by
  cases op with
  | shiftByte b => cases h
  | clearRegister => cases h
  | setMode m => cases h
  | _ => exact step_request_idle rfl (.inl rfl)

/-- Settles O30: each instruction is placed where the step executes it, `clearRegister` at the start of a byte, whose
first micro-step is its own. -/
theorem fetchedTableWordRuns : Obligations.FetchedTableWordRuns := by
  unfold Obligations.FetchedTableWordRuns
  intro s nbits w op hdecode
  have hplace : s.withFetchWord nbits w = placeInstr op s := by
    rw [State.withFetchWord, placeTableWord, hdecode]
  rw [hplace]
  cases op with
  | shiftByte b =>
    refine ⟨{ s with seq := .run (.write [b]) (items (.write [b])) 1 0 }, ?_, rfl, rfl, rfl, rfl, nofun,
      fun _ => ⟨_, _, rfl⟩⟩
    exact (step_pass rfl).trans (blockStep_byte rfl rfl)
  | clearRegister =>
    refine ⟨{ s with seq := .run (.write [0#8]) (items (.write [0#8])) 1 0 }, ?_, rfl, rfl, rfl, rfl, nofun,
      fun _ => ⟨_, _, rfl⟩⟩
    obtain ⟨e, -, hclear, hbyte⟩ := clearRegisterOpensEveryShiftByte
      { s with seq := .run (.write [0#8]) (items (.write [0#8])) 1 0 } _ _ _ 0 rfl (by decide)
    exact (step_pass rfl).trans ((blockStep_byte rfl rfl).trans (hbyte 0#8))
  | setMode m =>
    cases m with
    | true =>
      refine ⟨{ s with seq := .run (.write [0#8]) (items (.write [0#8])) 0 0 }, ?_, rfl, rfl, rfl, rfl, nofun,
        fun _ => ⟨_, _, rfl⟩⟩
      exact (step_pass rfl).trans (blockStep_mode rfl rfl)
    | false =>
      refine ⟨{ s with seq := .run .home (items .home) 0 0 }, ?_, rfl, rfl, rfl, rfl, nofun, fun _ => ⟨_, _, rfl⟩⟩
      exact (step_pass rfl).trans (blockStep_mode rfl rfl)
  | _ => exact ⟨{ s with seq := .idle }, step_placeInstr_public s rfl, rfl, rfl, rfl, rfl, fun _ => rfl, nofun⟩

/-- A public operation executed while another runs is refused, whether or not it passes its validation. -/
theorem exec_public_busy {op : Instr} {s : State} {req : Instr} {its : List Item} {i j : Nat} (hpub : op.isPublic = true)
    (hs : s.seq = .run req its i j) : exec op s = .refused .requestWhileBusy := by
  rw [exec_public s hpub]
  cases requestError op with
  | some r => exact raise_busy r hs
  | none => exact accept_busy op hs

/-- Settles O31. -/
theorem requestWhileBusyIsRefused : Obligations.RequestWhileBusyIsRefused := by
  unfold Obligations.RequestWhileBusyIsRefused
  exact fun s req its i j op hs => ⟨fun rest hh => step_request_busy hs hh, fun hpub => exec_public_busy hpub hs⟩

/-- An internal procedure executed in an idle block is refused. -/
theorem exec_internal_idle {op : Instr} {s : State} (hs : s.seq = .idle) (h : op.isPublic = false) :
    exec op s = .refused .notRequestable := by
  cases op with
  | shiftByte b => exact microStep_idle hs
  | clearRegister => exact microStep_idle hs
  | setMode m => exact microStep_idle hs
  | _ => cases h

/-- Settles O32. -/
theorem internalProceduresAreNotRequestable : Obligations.InternalProceduresAreNotRequestable := by
  unfold Obligations.InternalProceduresAreNotRequestable
  intro s op hs hint
  refine ⟨exec_internal_idle hs hint, fun rest hh => ?_⟩
  rw [step_request_idle hs hh]
  exact exec_internal_idle hs hint

/-! Reset and idleness. -/

/-- Settles O33: the reset leaves an idle block, which answers every public operation. -/
theorem resetAtAnyTime : Obligations.ResetAtAnyTime := by
  unfold Obligations.ResetAtAnyTime
  intro s rest hh
  refine ⟨_, hostStep_reset Latches.reset hh, rfl, fun op hpub => ?_⟩
  obtain ⟨u, hu, -⟩ := exists_exec_public hpub
    (show State.seq { s with lines := Latches.reset, seq := .idle, host := rest } = .idle from rfl)
  exact ⟨u, hu⟩

/-- Settles O34. -/
theorem resetState : Obligations.ResetState := by
  unfold Obligations.ResetState
  exact ⟨rfl, fun line => by cases line <;> rfl⟩

/-- Settles O35: the idle step changes nothing, as often as it is taken. -/
theorem idleBlockWaits : Obligations.IdleBlockWaits := by
  unfold Obligations.IdleBlockWaits
  intro s n hs hh
  induction n with
  | zero => rfl
  | succ n ih => exact (stepN_succ n ((step_quiet hh).trans (blockStep_idle hs))).trans ih

/-- Settles O51: only a reset reads the levels, and the reset state of the machine is the one without levels. -/
theorem resetLevelsAreAnArgument : Obligations.ResetLevelsAreAnArgument := by
  unfold Obligations.ResetLevelsAreAnArgument
  refine ⟨fun levels => ⟨⟨rfl, rfl, blockInv_of_idle rfl⟩, fun s rest hh => hostStep_reset levels hh,
    fun s hh => hostStep_eq_step levels hh⟩, rfl, fun s => rfl⟩

/-! The numbers and the words of the tables. -/

/-- Settles O27. -/
theorem reportCodes : Obligations.ReportCodes := by
  unfold Obligations.ReportCodes
  exact ⟨rfl, rfl, fun _ => rfl, fun _ _ => rfl⟩

/-- Settles O1: each row's word, decoded. -/
theorem tableWordsDecodeToTheirRows : Obligations.TableWordsDecodeToTheirRows := by
  unfold Obligations.TableWordsDecodeToTheirRows
  decide

end Sys2Proof.Machine
end
